-- ==== Sys2Proof/Word.lean ====
section
/-!
DEFINITION. The words of the block: 32-bit registers (R7, R22, R26), 64-bit command words (R80), and bit
strings in emission order (R9, R10).
-/

namespace Sys2Proof

/-- A general or configuration register: `XLEN = 32` (R7). -/
abbrev Word := BitVec 32

/-- A command word: `CMDLEN = 64` (R7, R80). -/
abbrev CommandWord := BitVec 64

/-- A bit string; the head is the first bit emitted (R9). -/
abbrev Bits := List Bool

/-- The id of a slice group, 0 to 7 (R40). -/
abbrev GroupId := BitVec 3

end Sys2Proof
end

