-- ==== Sys2Proof/Syntax.lean ====
section
/-!
DEFINITION. The 42 operations of the opcode map (R84), one constructor of `Instr` for each row of
spec/opcode_table.json, with the modifiers of `fn` and `imm` (R82, R378, R379) as closed types.
-/

namespace Sys2Proof

/-- A general register number, `NREG = 16` (R7, R22). -/
abbrev Reg := Fin 16

/-- A writable configuration register number, 0x00 to 0x11 (R27, R373). -/
abbrev ConfReg := Fin 18

/-- A derived register, number 0x40 plus the value (R38). -/
abbrev DerivedReg := Fin 10

/-- A register number `CFGRD` may name (R374). -/
inductive ReadReg where
  | conf (r : ConfReg)
  | derived (r : DerivedReg)
  | status
  | faultCmd
  | outLenLow
  | outLenHigh
  | mbCount
  | cmdCnt
  deriving DecidableEq, Repr

/-- A configuration array (R30); the array id is the position in this list. -/
inductive ArrayId where
  | runLengthMinus1
  | topLeft
  | bottomRight
  | sliceGroupId
  deriving DecidableEq, Repr

/-- The record field an `MBSET` names (R378). -/
inductive MbField where
  | cbp
  | subMbType (p : Fin 4)
  | transform8x8
  deriving DecidableEq, Repr

/-- `iCbCr` (R260): 0 is Cb, 1 is Cr (R87). -/
inductive Component where
  | cb
  | cr
  deriving DecidableEq, Repr

/-- A residual category (R260), codes 0 to 10; the two chroma categories carry `iCbCr`. -/
inductive Category where
  | intra16x16DC
  | intra16x16AC
  | luma4x4
  | cbIntra16x16DC
  | cbIntra16x16AC
  | cb4x4
  | crIntra16x16DC
  | crIntra16x16AC
  | cr4x4
  | chromaDC (c : Component)
  | chromaAC (c : Component)
  deriving DecidableEq, Repr

/-- The symbol a `TBSET` writes (R379), with `e = imm[15:8]` where the symbol has an element index and
`z = imm[21:16]` where it has a suffix size. -/
inductive TbSymbol where
  | totalCoeff
  | trailingOnes
  | t1Sign (e : BitVec 8)
  | levelPrefix (e : BitVec 8)
  | levelSuffix (e : BitVec 8) (z : BitVec 6)
  | totalZeros
  | runBefore (e : BitVec 8)
  deriving DecidableEq, Repr

/-- `frameFlagOverride` of `NEIGH` (R82, R220). -/
inductive FrameOverride where
  | none
  | field
  | frame
  deriving DecidableEq, Repr

/-- The kind of `BLK2XY` and `XY2BLK` (R82, R240). -/
inductive BlkKind where
  | luma4x4
  | luma8x8
  | chroma4x4
  deriving DecidableEq, Repr

/-- The maximum-coefficient class of `TOTALZEROS` (R82, R276). -/
inductive CoeffClass where
  | max4
  | max8
  | max16
  deriving DecidableEq, Repr

/-- The operations of R84. Register operands stand in the order `rd, ra, rb, rc`; modifiers come first. -/
inductive Instr where
  | nop
  | ldi (rd : Reg) (imm : Word)
  | mov (rd ra : Reg)
  | cfgwr (r : ConfReg) (ra : Reg)
  | cfgrd (r : ReadReg) (rd : Reg)
  | cfgwra (a : ArrayId) (ra rb : Reg)
  | slicestart
  | mbnew (fieldCoded : Bool) (ra rb : Reg)
  | mbset (f : MbField) (ra : Reg)
  | tbset (c : Category) (sym : TbSymbol) (ra rb : Reg)
  | mbcommit
  | statrd (rd : Reg)
  | sreset
  | expg (signed reversed : Bool) (k : Fin 64) (ra : Reg)
  | tu (ra rb : Reg)
  | fl (ra rb : Reg)
  | mbtype (rd ra : Reg)
  | submbtype (ra : Reg)
  | cbp (ra : Reg)
  | mbqpd (ra : Reg)
  | calm1 (ra : Reg)
  | uegk (signed : Bool) (k : Fin 64) (rd ra rb : Reg)
  | isintra (rd ra : Reg)
  | isinter (rd ra : Reg)
  | numpart (rd ra : Reg)
  | partpred (rd ra rb : Reg)
  | partdim (rd ra : Reg)
  | numsubpart (rd ra rb : Reg)
  | subpartpred (rd ra rb : Reg)
  | subpartdim (rd ra rb : Reg)
  | sgmap
  | maprd (rd ra : Reg)
  | neigh (chroma : Bool) (o : FrameOverride) (rd ra rb rc : Reg)
  | blk2xy (kind : BlkKind) (rd ra : Reg)
  | xy2blk (kind : BlkKind) (rd ra rb : Reg)
  | xy2part (rd ra rb rc : Reg)
  | nc (c : Category) (rd ra : Reg)
  | coefftoken (ra rb rc : Reg)
  | levelpfx (ra : Reg)
  | totalzeros (c : CoeffClass) (ra rb : Reg)
  | runbefore (ra rb : Reg)
  | resblk (c : Category) (ra : Reg)
  deriving DecidableEq, Repr

end Sys2Proof
end

