-- ==== Sys2Proof/WellFormed.lean ====
section
/-!
DEFINITION. The instructions that have an encoding. The types of the operands rule out every reserved modifier;
what is left to check is that a multi-register result does not run past `x[15]` (R83).
-/

namespace Sys2Proof

/-- "The register numbers do not wrap: `rd > 13` for `NEIGH`, or `rd > 14` for `BLK2XY` and `XY2PART`, is an illegal
command" (R83). -/
def Instr.wellFormed : Instr → Bool
  | .neigh _ _ rd _ _ _ => decide (rd.val ≤ 13)
  | .blk2xy _ rd _ => decide (rd.val ≤ 14)
  | .xy2part rd _ _ _ => decide (rd.val ≤ 14)
  | .nop | .ldi _ _ | .mov _ _ | .cfgwr _ _ | .cfgrd _ _ | .cfgwra _ _ _ | .slicestart | .mbnew _ _ _ | .mbset _ _
  | .tbset _ _ _ _ | .mbcommit | .statrd _ | .sreset | .expg _ _ _ _ | .tu _ _ | .fl _ _ | .mbtype _ _
  | .submbtype _ | .cbp _ | .mbqpd _ | .calm1 _ | .uegk _ _ _ _ _ | .isintra _ _ | .isinter _ _ | .numpart _ _
  | .partpred _ _ _ | .partdim _ _ | .numsubpart _ _ _ | .subpartpred _ _ _ | .subpartdim _ _ _ | .sgmap
  | .maprd _ _ | .xy2blk _ _ _ _ | .nc _ _ _ | .coefftoken _ _ _ | .levelpfx _ | .totalzeros _ _ _
  | .runbefore _ _ | .resblk _ _ => true

end Sys2Proof
end

