-- ==== Sys2Proof/Decode.lean ====
section
/-!
DEFINITION. Decoding of command words, total on all 64-bit words (R80 to R86), the encoder written from the same
tables, and `decodeTableWord`, the host's view of the decoder.
-/

namespace Sys2Proof

/-- Why a word is an illegal command (R81, R83, R403). -/
inductive Reject where
  /-- The `op` value is not in the table of R84 (R85). -/
  | reservedOp
  /-- A must-be-zero field is not zero (R81). -/
  | unusedNotZero
  /-- A reserved `fn` value (R82, R403). -/
  | reservedFn
  /-- `CFGWR` or `CFGRD` of a register number it may not name (R28, R373, R374). -/
  | reservedRegister
  /-- A multi-register result that would run past `x[15]` (R83). -/
  | resultPastLast
  /-- The `imm` conditions of `TBSET` (R379). -/
  | badSymbol
  deriving DecidableEq, Repr

/-- The fields of the command word (R80). -/
structure Fields where
  op : BitVec 8
  rd : BitVec 4
  ra : BitVec 4
  rb : BitVec 4
  rc : BitVec 4
  fn : BitVec 8
  imm : Word
  deriving DecidableEq, Repr

/-- The bit positions of R80. -/
def Fields.ofWord (w : CommandWord) : Fields where
  op := w.extractLsb' 56 8
  rd := w.extractLsb' 52 4
  ra := w.extractLsb' 48 4
  rb := w.extractLsb' 44 4
  rc := w.extractLsb' 40 4
  fn := w.extractLsb' 32 8
  imm := w.extractLsb' 0 32

/-- The word of R80 with these fields. -/
def Fields.toWord (f : Fields) : CommandWord :=
  f.op ++ f.rd ++ f.ra ++ f.rb ++ f.rc ++ f.fn ++ f.imm

/-- The fields that can be must-be-zero (R81). -/
inductive FieldName where
  | rd
  | ra
  | rb
  | rc
  | fn
  | imm
  deriving DecidableEq, Repr

/-- The named field is zero. -/
def Fields.isZero (f : Fields) : FieldName → Bool
  | .rd => f.rd == 0
  | .ra => f.ra == 0
  | .rb => f.rb == 0
  | .rc => f.rc == 0
  | .fn => f.fn == 0
  | .imm => f.imm == 0

/-- "An unused field must be zero" (R81): `r` if the named fields are all zero. -/
def Fields.unused (f : Fields) (names : List FieldName) (r : Except Reject Instr) : Except Reject Instr :=
  if names.all f.isZero then r else .error .unusedNotZero

/-- The instruction an assembled modifier gives, or the rejection `e` where the modifier is reserved. -/
def withModifier {α : Type} (m : Option α) (e : Reject) (k : α → Except Reject Instr) : Except Reject Instr :=
  match m with
  | some a => k a
  | none => .error e

/-- A register field as a register number. -/
def regOf (b : BitVec 4) : Reg := b.toFin

/-- A register number as a register field. -/
def ofReg (r : Reg) : BitVec 4 := BitVec.ofFin r

/-! Register numbers, arrays and record fields (R27, R30, R38, R374, R378). -/

/-- A writable register number (R373). -/
def confRegOf (fn : BitVec 8) : Option ConfReg :=
  if h : fn.toNat < 18 then some ⟨fn.toNat, h⟩ else none

/-- The number of a writable register (R27). -/
def ConfReg.number (r : ConfReg) : BitVec 8 := BitVec.ofNat 8 r.val

/-- A readable register number: "0x00 to 0x11, 0x40 to 0x49, 0x80, 0x81, 0x83, 0x84, 0x85, 0x86" (R374). -/
def readRegOf (fn : BitVec 8) : Option ReadReg :=
  if h : fn.toNat < 18 then some (.conf ⟨fn.toNat, h⟩)
  else if h : 0x40 ≤ fn.toNat ∧ fn.toNat < 0x4A then some (.derived ⟨fn.toNat - 0x40, by omega⟩)
  else match fn.toNat with
    | 0x80 => some .status
    | 0x81 => some .faultCmd
    | 0x83 => some .outLenLow
    | 0x84 => some .outLenHigh
    | 0x85 => some .mbCount
    | 0x86 => some .cmdCnt
    | _ => none

/-- The number of a readable register (R374). -/
def ReadReg.number : ReadReg → BitVec 8
  | .conf r => r.number
  | .derived r => BitVec.ofNat 8 (0x40 + r.val)
  | .status => 0x80
  | .faultCmd => 0x81
  | .outLenLow => 0x83
  | .outLenHigh => 0x84
  | .mbCount => 0x85
  | .cmdCnt => 0x86

/-- `fn[1:0]` of `CFGWRA`, `fn[7:2]` reserved (R30, R82). -/
def arrayOf (fn : BitVec 8) : Option ArrayId :=
  match fn.toNat with
  | 0 => some .runLengthMinus1
  | 1 => some .topLeft
  | 2 => some .bottomRight
  | 3 => some .sliceGroupId
  | _ => none

/-- The id of an array (R30). -/
def ArrayId.number : ArrayId → BitVec 8
  | .runLengthMinus1 => 0
  | .topLeft => 1
  | .bottomRight => 2
  | .sliceGroupId => 3

/-- `fn[0]` of `MBNEW`, `fn[7:1]` reserved (R82). -/
def fieldFlagOf (fn : BitVec 8) : Option Bool :=
  match fn.toNat with
  | 0 => some false
  | 1 => some true
  | _ => none

/-- The field id of `MBSET`: "`fn > 5` raises `IllegalCommand`" (R378). -/
def mbFieldOf (fn : BitVec 8) : Option MbField :=
  match fn.toNat with
  | 0 => some .cbp
  | 1 => some (.subMbType 0)
  | 2 => some (.subMbType 1)
  | 3 => some (.subMbType 2)
  | 4 => some (.subMbType 3)
  | 5 => some .transform8x8
  | _ => none

/-- The id of a record field (R378). -/
def MbField.number : MbField → BitVec 8
  | .cbp => 0
  | .subMbType p => BitVec.ofNat 8 (p.val + 1)
  | .transform8x8 => 5

/-- `fn[3:0]` the category code, `fn[4]` `iCbCr`, `fn[7:5]` reserved; codes 11 to 15, and `iCbCr = 1` below code 9, are
illegal (R82, R260, R403). -/
def categoryOf (fn : BitVec 8) : Option Category :=
  match fn.toNat with
  | 0 => some .intra16x16DC
  | 1 => some .intra16x16AC
  | 2 => some .luma4x4
  | 3 => some .cbIntra16x16DC
  | 4 => some .cbIntra16x16AC
  | 5 => some .cb4x4
  | 6 => some .crIntra16x16DC
  | 7 => some .crIntra16x16AC
  | 8 => some .cr4x4
  | 9 => some (.chromaDC .cb)
  | 10 => some (.chromaAC .cb)
  | 0x19 => some (.chromaDC .cr)
  | 0x1A => some (.chromaAC .cr)
  | _ => none

/-- The category code of R260. -/
def Category.code : Category → Nat
  | .intra16x16DC => 0
  | .intra16x16AC => 1
  | .luma4x4 => 2
  | .cbIntra16x16DC => 3
  | .cbIntra16x16AC => 4
  | .cb4x4 => 5
  | .crIntra16x16DC => 6
  | .crIntra16x16AC => 7
  | .cr4x4 => 8
  | .chromaDC _ => 9
  | .chromaAC _ => 10

/-- `iCbCr` as a number (R260). -/
def Component.number : Component → Nat
  | .cb => 0
  | .cr => 1

/-- `iCbCr` of a category, 0 for codes 0 to 8 (R260). -/
def Category.iCbCr : Category → Nat
  | .chromaDC c => c.number
  | .chromaAC c => c.number
  | .intra16x16DC | .intra16x16AC | .luma4x4 | .cbIntra16x16DC | .cbIntra16x16AC | .cb4x4 | .crIntra16x16DC
  | .crIntra16x16AC | .cr4x4 => 0

/-- The `fn` of a category (R82). -/
def Category.fn (c : Category) : BitVec 8 := BitVec.ofNat 8 (16 * c.iCbCr + c.code)

/-- `fn[0]` and `fn[2:1]` of `NEIGH`; `fn[2:1] = 1` and `fn[7:3]` are reserved (R82). -/
def neighModeOf (fn : BitVec 8) : Option (Bool × FrameOverride) :=
  match fn.toNat with
  | 0 => some (false, .none)
  | 1 => some (true, .none)
  | 4 => some (false, .field)
  | 5 => some (true, .field)
  | 6 => some (false, .frame)
  | 7 => some (true, .frame)
  | _ => none

/-- The `fn` of a `NEIGH` (R82). -/
def neighFn (chroma : Bool) (o : FrameOverride) : BitVec 8 :=
  BitVec.ofNat 8 (chroma.toNat + 2 * match o with | .none => 0 | .field => 2 | .frame => 3)

/-- The kind of `BLK2XY` and `XY2BLK`; 3 and `fn[7:2]` are reserved (R82). -/
def kindOf (fn : BitVec 8) : Option BlkKind :=
  match fn.toNat with
  | 0 => some .luma4x4
  | 1 => some .luma8x8
  | 2 => some .chroma4x4
  | _ => none

/-- The `fn` of a kind (R82). -/
def BlkKind.number : BlkKind → BitVec 8
  | .luma4x4 => 0
  | .luma8x8 => 1
  | .chroma4x4 => 2

/-- The class of `TOTALZEROS`; 3 and `fn[7:2]` are reserved (R82). -/
def coeffClassOf (fn : BitVec 8) : Option CoeffClass :=
  match fn.toNat with
  | 0 => some .max4
  | 1 => some .max8
  | 2 => some .max16
  | _ => none

/-- The `fn` of a class (R82). -/
def CoeffClass.number : CoeffClass → BitVec 8
  | .max4 => 0
  | .max8 => 1
  | .max16 => 2

/-- `fn[0]` of `EXPG` and `UEGK` (R82). -/
def signedOf (fn : BitVec 8) : Bool := fn.getLsbD 0

/-- `fn[1]` of `EXPG` (R82), reserved in `UEGK`. -/
def reversedOf (fn : BitVec 8) : Bool := fn.getLsbD 1

/-- `fn[7:2]` of `EXPG` and `UEGK` (R82). -/
def orderOf (fn : BitVec 8) : Fin 64 := (fn.extractLsb' 2 6).toFin

/-- The `fn` of `EXPG` and, with `reversed` false, of `UEGK` (R82). -/
def golombFn (signed reversed : Bool) (k : Fin 64) : BitVec 8 :=
  (BitVec.ofFin k : BitVec 6) ++ BitVec.ofBool reversed ++ BitVec.ofBool signed

/-- The symbol of a `TBSET` from `imm[3:0] = s`, `imm[15:8] = e`, `imm[21:16] = z`: "`s > 6`, or `e != 0` for `s` in
{0, 1, 5}, or `z != 0` for `s != 4`" and a non-zero `imm[7:4]` or `imm[31:22]` are illegal (R379). -/
def symbolOf (imm : Word) : Option TbSymbol :=
  let e := imm.extractLsb' 8 8
  let z := imm.extractLsb' 16 6
  if imm.extractLsb' 4 4 ≠ 0 ∨ imm.extractLsb' 22 10 ≠ 0 then none
  else match (imm.extractLsb' 0 4).toNat with
    | 0 => if e = 0 ∧ z = 0 then some .totalCoeff else none
    | 1 => if e = 0 ∧ z = 0 then some .trailingOnes else none
    | 2 => if z = 0 then some (.t1Sign e) else none
    | 3 => if z = 0 then some (.levelPrefix e) else none
    | 4 => some (.levelSuffix e z)
    | 5 => if e = 0 ∧ z = 0 then some .totalZeros else none
    | 6 => if z = 0 then some (.runBefore e) else none
    | _ => none

/-- The `imm` with these symbol id, element index and suffix size (R379). -/
def symbolImm (s : BitVec 4) (e : BitVec 8) (z : BitVec 6) : Word :=
  (0 : BitVec 10) ++ z ++ e ++ (0 : BitVec 4) ++ s

/-- The `imm` of a symbol (R379). -/
def TbSymbol.imm : TbSymbol → Word
  | .totalCoeff => symbolImm 0 0 0
  | .trailingOnes => symbolImm 1 0 0
  | .t1Sign e => symbolImm 2 e 0
  | .levelPrefix e => symbolImm 3 e 0
  | .levelSuffix e z => symbolImm 4 e z
  | .totalZeros => symbolImm 5 0 0
  | .runBefore e => symbolImm 6 e 0

/-- The instruction `i` if its results stay inside the register file (R83). -/
def withinFile (i : Instr) : Except Reject Instr :=
  if i.wellFormed then .ok i else .error .resultPastLast

/-- The operation a set of fields selects (R81, R84). -/
def Fields.decode (f : Fields) : Except Reject Instr :=
  let rd := regOf f.rd
  let ra := regOf f.ra
  let rb := regOf f.rb
  let rc := regOf f.rc
  match f.op.toNat with
  | 0x00 => f.unused [.rd, .ra, .rb, .rc, .fn, .imm] (.ok .nop)
  | 0x01 => f.unused [.ra, .rb, .rc, .fn] (.ok (.ldi rd f.imm))
  | 0x02 => f.unused [.rb, .rc, .fn, .imm] (.ok (.mov rd ra))
  | 0x03 => f.unused [.rd, .rb, .rc, .imm]
      (withModifier (confRegOf f.fn) .reservedRegister fun r => .ok (.cfgwr r ra))
  | 0x04 => f.unused [.ra, .rb, .rc, .imm]
      (withModifier (readRegOf f.fn) .reservedRegister fun r => .ok (.cfgrd r rd))
  | 0x05 => f.unused [.rd, .rc, .imm] (withModifier (arrayOf f.fn) .reservedFn fun a => .ok (.cfgwra a ra rb))
  | 0x06 => f.unused [.rd, .ra, .rb, .rc, .fn, .imm] (.ok .slicestart)
  | 0x07 => f.unused [.rd, .rc, .imm] (withModifier (fieldFlagOf f.fn) .reservedFn fun b => .ok (.mbnew b ra rb))
  | 0x08 => f.unused [.rd, .rb, .rc, .imm] (withModifier (mbFieldOf f.fn) .reservedFn fun m => .ok (.mbset m ra))
  | 0x09 => f.unused [.rd, .rc] (withModifier (categoryOf f.fn) .reservedFn fun c =>
      withModifier (symbolOf f.imm) .badSymbol fun sym => .ok (.tbset c sym ra rb))
  | 0x0A => f.unused [.rd, .ra, .rb, .rc, .fn, .imm] (.ok .mbcommit)
  | 0x0B => f.unused [.ra, .rb, .rc, .fn, .imm] (.ok (.statrd rd))
  | 0x0C => f.unused [.rd, .ra, .rb, .rc, .fn, .imm] (.ok .sreset)
  | 0x10 => f.unused [.rd, .rb, .rc, .imm] (.ok (.expg (signedOf f.fn) (reversedOf f.fn) (orderOf f.fn) ra))
  | 0x11 => f.unused [.rd, .rc, .fn, .imm] (.ok (.tu ra rb))
  | 0x12 => f.unused [.rd, .rc, .fn, .imm] (.ok (.fl ra rb))
  | 0x13 => f.unused [.rb, .rc, .fn, .imm] (.ok (.mbtype rd ra))
  | 0x14 => f.unused [.rd, .rb, .rc, .fn, .imm] (.ok (.submbtype ra))
  | 0x15 => f.unused [.rd, .rb, .rc, .fn, .imm] (.ok (.cbp ra))
  | 0x16 => f.unused [.rd, .rb, .rc, .fn, .imm] (.ok (.mbqpd ra))
  | 0x17 => f.unused [.rd, .rb, .rc, .fn, .imm] (.ok (.calm1 ra))
  | 0x18 => f.unused [.rc, .imm]
      (if reversedOf f.fn then .error .reservedFn else .ok (.uegk (signedOf f.fn) (orderOf f.fn) rd ra rb))
  | 0x20 => f.unused [.rb, .rc, .fn, .imm] (.ok (.isintra rd ra))
  | 0x21 => f.unused [.rb, .rc, .fn, .imm] (.ok (.isinter rd ra))
  | 0x22 => f.unused [.rb, .rc, .fn, .imm] (.ok (.numpart rd ra))
  | 0x23 => f.unused [.rc, .fn, .imm] (.ok (.partpred rd ra rb))
  | 0x24 => f.unused [.rb, .rc, .fn, .imm] (.ok (.partdim rd ra))
  | 0x25 => f.unused [.rc, .fn, .imm] (.ok (.numsubpart rd ra rb))
  | 0x26 => f.unused [.rc, .fn, .imm] (.ok (.subpartpred rd ra rb))
  | 0x27 => f.unused [.rc, .fn, .imm] (.ok (.subpartdim rd ra rb))
  | 0x30 => f.unused [.rd, .ra, .rb, .rc, .fn, .imm] (.ok .sgmap)
  | 0x31 => f.unused [.rb, .rc, .fn, .imm] (.ok (.maprd rd ra))
  | 0x40 => f.unused [.imm]
      (withModifier (neighModeOf f.fn) .reservedFn fun m => withinFile (.neigh m.1 m.2 rd ra rb rc))
  | 0x41 => f.unused [.rb, .rc, .imm] (withModifier (kindOf f.fn) .reservedFn fun k => withinFile (.blk2xy k rd ra))
  | 0x42 => f.unused [.rc, .imm] (withModifier (kindOf f.fn) .reservedFn fun k => .ok (.xy2blk k rd ra rb))
  | 0x43 => f.unused [.fn, .imm] (withinFile (.xy2part rd ra rb rc))
  | 0x50 => f.unused [.rb, .rc, .imm] (withModifier (categoryOf f.fn) .reservedFn fun c => .ok (.nc c rd ra))
  | 0x51 => f.unused [.rd, .fn, .imm] (.ok (.coefftoken ra rb rc))
  | 0x52 => f.unused [.rd, .rb, .rc, .fn, .imm] (.ok (.levelpfx ra))
  | 0x53 => f.unused [.rd, .rc, .imm] (withModifier (coeffClassOf f.fn) .reservedFn fun c => .ok (.totalzeros c ra rb))
  | 0x54 => f.unused [.rd, .rc, .fn, .imm] (.ok (.runbefore ra rb))
  | 0x55 => f.unused [.rd, .rb, .rc, .imm] (withModifier (categoryOf f.fn) .reservedFn fun c => .ok (.resblk c ra))
  | _ => .error .reservedOp

/-- "A decoder is therefore total: every 64-bit word either selects exactly one operation with definite operands or is
illegal" (R81). -/
def decode (w : CommandWord) : Except Reject Instr := (Fields.ofWord w).decode

/-- The command fields with operation code `op` and every other field zero. -/
def Fields.opcode (op : BitVec 8) : Fields := { op := op, rd := 0, ra := 0, rb := 0, rc := 0, fn := 0, imm := 0 }

/-- The fields of an instruction, from the table of R84. -/
def Instr.fields : Instr → Fields
  | .nop => .opcode 0x00
  | .ldi rd imm => { Fields.opcode 0x01 with rd := ofReg rd, imm := imm }
  | .mov rd ra => { Fields.opcode 0x02 with rd := ofReg rd, ra := ofReg ra }
  | .cfgwr r ra => { Fields.opcode 0x03 with ra := ofReg ra, fn := r.number }
  | .cfgrd r rd => { Fields.opcode 0x04 with rd := ofReg rd, fn := r.number }
  | .cfgwra a ra rb => { Fields.opcode 0x05 with ra := ofReg ra, rb := ofReg rb, fn := a.number }
  | .slicestart => .opcode 0x06
  | .mbnew b ra rb => { Fields.opcode 0x07 with ra := ofReg ra, rb := ofReg rb, fn := BitVec.ofNat 8 b.toNat }
  | .mbset m ra => { Fields.opcode 0x08 with ra := ofReg ra, fn := m.number }
  | .tbset c sym ra rb => { Fields.opcode 0x09 with ra := ofReg ra, rb := ofReg rb, fn := c.fn, imm := sym.imm }
  | .mbcommit => .opcode 0x0A
  | .statrd rd => { Fields.opcode 0x0B with rd := ofReg rd }
  | .sreset => .opcode 0x0C
  | .expg s r k ra => { Fields.opcode 0x10 with ra := ofReg ra, fn := golombFn s r k }
  | .tu ra rb => { Fields.opcode 0x11 with ra := ofReg ra, rb := ofReg rb }
  | .fl ra rb => { Fields.opcode 0x12 with ra := ofReg ra, rb := ofReg rb }
  | .mbtype rd ra => { Fields.opcode 0x13 with rd := ofReg rd, ra := ofReg ra }
  | .submbtype ra => { Fields.opcode 0x14 with ra := ofReg ra }
  | .cbp ra => { Fields.opcode 0x15 with ra := ofReg ra }
  | .mbqpd ra => { Fields.opcode 0x16 with ra := ofReg ra }
  | .calm1 ra => { Fields.opcode 0x17 with ra := ofReg ra }
  | .uegk s k rd ra rb =>
      { Fields.opcode 0x18 with rd := ofReg rd, ra := ofReg ra, rb := ofReg rb, fn := golombFn s false k }
  | .isintra rd ra => { Fields.opcode 0x20 with rd := ofReg rd, ra := ofReg ra }
  | .isinter rd ra => { Fields.opcode 0x21 with rd := ofReg rd, ra := ofReg ra }
  | .numpart rd ra => { Fields.opcode 0x22 with rd := ofReg rd, ra := ofReg ra }
  | .partpred rd ra rb => { Fields.opcode 0x23 with rd := ofReg rd, ra := ofReg ra, rb := ofReg rb }
  | .partdim rd ra => { Fields.opcode 0x24 with rd := ofReg rd, ra := ofReg ra }
  | .numsubpart rd ra rb => { Fields.opcode 0x25 with rd := ofReg rd, ra := ofReg ra, rb := ofReg rb }
  | .subpartpred rd ra rb => { Fields.opcode 0x26 with rd := ofReg rd, ra := ofReg ra, rb := ofReg rb }
  | .subpartdim rd ra rb => { Fields.opcode 0x27 with rd := ofReg rd, ra := ofReg ra, rb := ofReg rb }
  | .sgmap => .opcode 0x30
  | .maprd rd ra => { Fields.opcode 0x31 with rd := ofReg rd, ra := ofReg ra }
  | .neigh c o rd ra rb rc =>
      { Fields.opcode 0x40 with rd := ofReg rd, ra := ofReg ra, rb := ofReg rb, rc := ofReg rc, fn := neighFn c o }
  | .blk2xy k rd ra => { Fields.opcode 0x41 with rd := ofReg rd, ra := ofReg ra, fn := k.number }
  | .xy2blk k rd ra rb => { Fields.opcode 0x42 with rd := ofReg rd, ra := ofReg ra, rb := ofReg rb, fn := k.number }
  | .xy2part rd ra rb rc =>
      { Fields.opcode 0x43 with rd := ofReg rd, ra := ofReg ra, rb := ofReg rb, rc := ofReg rc }
  | .nc c rd ra => { Fields.opcode 0x50 with rd := ofReg rd, ra := ofReg ra, fn := c.fn }
  | .coefftoken ra rb rc => { Fields.opcode 0x51 with ra := ofReg ra, rb := ofReg rb, rc := ofReg rc }
  | .levelpfx ra => { Fields.opcode 0x52 with ra := ofReg ra }
  | .totalzeros c ra rb => { Fields.opcode 0x53 with ra := ofReg ra, rb := ofReg rb, fn := c.number }
  | .runbefore ra rb => { Fields.opcode 0x54 with ra := ofReg ra, rb := ofReg rb }
  | .resblk c ra => { Fields.opcode 0x55 with ra := ofReg ra, fn := c.fn }

/-- The command word of an instruction (R80, R84). -/
def encode (i : Instr) : CommandWord := i.fields.toWord

/-- The instruction the decoder reads from a word of the opcode table: `w` has at most `nbits` bits, bit 0 the least
significant bit of the one 64-bit command word (R80). -/
def decodeTableWord (nbits w : Nat) : Option Instr :=
  (decode (BitVec.ofNat 64 (w % 2 ^ nbits))).toOption

end Sys2Proof
end

