-- ==== Sys2Proof/Config.lean ====
section
/-!
DEFINITION. The open parameters of the spec (R8, D5) and the free values. The nine parameters that R8 offers a default
for are the fields of `Params`, which State carries, so a claim about every state holds for every value of them; their
defaults stand in Machine/Params.lean. The two that have none, and the free values, are constants with no body:
uninterpreted, so a claim holds for every value of them.
-/

namespace Sys2Proof

/-- What an out-of-range `chroma_format_idc` does (R8, R376). -/
inductive ChromaOorPolicy where
  | fault
  | default420
  deriving DecidableEq, Repr, Inhabited

/-- `xRegion` and `yRegion` of `MBAFF_TABLE` (R232). -/
inductive Region where
  | neg
  | inside
  | over
  deriving DecidableEq, Repr, Inhabited

/-- The pair a cell of `MBAFF_TABLE` names (R232). -/
inductive PairName where
  | a
  | b
  | c
  | d
  | cur
  | none
  deriving DecidableEq, Repr, Inhabited

/-- The macroblock of a pair a cell of `MBAFF_TABLE` names (R232). -/
inductive Member where
  | top
  | bottom
  deriving DecidableEq, Repr, Inhabited

/-- The cell of `MBAFF_TABLE` for a pair whose frame or field flag is known: the member and `yM` (R232). -/
structure MbaffCell where
  member : Member
  yM : Int
  deriving DecidableEq, Repr, Inhabited

namespace Machine

/-! ## The types of the tables (47_type_tables.md, 46_vlc_tables.md) -/

/-- A macroblock type code `MbT`, 0 to 56 (R330). -/
abbrev MbT := Fin 57

/-- A sub-macroblock type code `SubT`, 0 to 16 (R331). -/
abbrev SubT := Fin 17

/-- The class of a slice type, `SLICE_TYPE % 5` (R27, R124). -/
inductive SliceClass where
  | p
  | b
  | i
  | sp
  | si
  deriving DecidableEq, Repr

/-- The prediction modes (R333). -/
inductive PredMode where
  | intra4x4
  | intra8x8
  | intra16x16
  | predL0
  | predL1
  | biPred
  | direct
  | na
  deriving DecidableEq, Repr

/-- The sizes of partitions and sub-partitions, width by height (R334 to R337). -/
inductive BlockSize where
  | s16x16
  | s16x8
  | s8x16
  | s8x8
  | s8x4
  | s4x8
  | s4x4
  deriving DecidableEq, Repr

/-- A row of `MB_CLASS_TABLE` (R334 to R336). `mode0` of `I_NxN` is the one for `t8x8 = 0`. -/
structure MbClass where
  intra : Bool
  numPart : Nat
  mode0 : PredMode
  mode1 : PredMode
  size : BlockSize
  deriving DecidableEq, Repr

/-- A row of `SUB_MB_CLASS_TABLE` (R337). -/
structure SubMbClass where
  numSubPart : Nat
  mode : PredMode
  size : BlockSize
  deriving DecidableEq, Repr

/-- Rows by slice class, in a row by coded value; `none`, and a value past the end, is "no entry" (R124, R128). -/
structure BySlice (α : Type) where
  p : List (Option α)
  b : List (Option α)
  i : List (Option α)
  sp : List (Option α)
  si : List (Option α)
  deriving DecidableEq, Repr

/-- The six context classes of `coeff_token` (R271). -/
inductive TokenClass where
  | cdc422
  | cdc420
  | n0
  | n2
  | n4
  | n8
  deriving DecidableEq, Repr

/-- A table of code words by two indices; `none`, and an index past an end, is an absent entry (R300). -/
abbrev CodeTable := List (List (Option Bits))

/-- `COEFF_TOKEN_TABLE`, by class (R301 to R306): rows `total_coeff`, in a row by `trailing_ones`. -/
structure CoeffTokenTable where
  cdc422 : CodeTable
  cdc420 : CodeTable
  n0 : CodeTable
  n2 : CodeTable
  n4 : CodeTable
  n8 : CodeTable
  deriving DecidableEq, Repr

/-- `TOTAL_ZEROS_TABLE`, by class (R310 to R312): columns `tc` from 1, in a column by `total_zeros`. -/
structure TotalZerosTable where
  max4 : CodeTable
  max8 : CodeTable
  max16 : CodeTable
  deriving DecidableEq, Repr

/-- The parameters of R8 that have a default, "which the model takes as arguments". No command changes one. `maxMbs` is
`MAX_MBS`, `none` for unbounded; `cipNalTypes` is `CIP_NAL_TYPES`; `runBeforeTable` is `RUN_BEFORE_TABLE`, columns
`min(zerosLeft, 7)` from 1, in a column by `run_before` (R315); the `Bool` of an mb_type entry is `nested` (R124). -/
structure Params where
  maxMbs : Option Nat
  cipNalTypes : List Nat
  coeffTokenTable : CoeffTokenTable
  totalZerosTable : TotalZerosTable
  runBeforeTable : CodeTable
  mbTypeBinTable : BySlice (Bits × Bool)
  subMbTypeBinTable : BySlice Bits
  mbClassTable : Vector MbClass 57
  subMbClassTable : Vector SubMbClass 17
  deriving DecidableEq, Repr

end Machine

namespace Config

/-- `CHROMA_OOR_POLICY` (R8, R376): OPEN, no default, so uninterpreted. DESIGN CHOICE, safe, log entry 7. -/
opaque chromaOorPolicy : ChromaOorPolicy

/-- The pair of `MBAFF_TABLE` (R232): "the pair X depends only on the first four arguments", here the two regions,
`currMbFrameFlag` and `mbIsTopMbFrame`. OPEN (R236), so uninterpreted. DESIGN CHOICE, safe, log entry 5. -/
opaque mbaffPair : Region → Region → Bool → Bool → PairName

/-- The member and `yM` of `MBAFF_TABLE` (R232); the arguments are `xRegion`, `yRegion`, `currMbFrameFlag`,
`mbIsTopMbFrame`, `mbAddrXFrameFlag`, `yN`, `maxH`. OPEN (R236), so uninterpreted. DESIGN CHOICE, safe, log entry 5. -/
opaque mbaffCell : Region → Region → Bool → Bool → Bool → Int → Nat → MbaffCell

/-- `OUTLEN` once the number of bits it should hold no longer fits 64 bits (R50, U3): a free value of that number.
DESIGN CHOICE, safe, log entry 4. -/
opaque outLenPastEnd : Nat → BitVec 64

/-- What the 32-bit register `PIC_SIZE_IN_MBS` holds when the product of R38 does not fit it: a free value of that
product. DESIGN CHOICE, safe, log entry 11. -/
opaque picSizeInMbsTooWide : Nat → Word

end Config

end Sys2Proof
end

