-- ==== Sys2Proof/Machine/BitString.lean ====
section
/-!
DEFINITION. Bit strings and the integer codes built of them: `rep`, `bin` (R10), zig-zag and Exp-Golomb (R101 to R103),
unary and truncated unary (R120, R133).
-/

namespace Sys2Proof.Machine

/-- `rep(b, n)` is `n` copies of bit `b` (R10). -/
def rep (b : Bool) (n : Nat) : Bits := List.replicate n b

/-- `bin(v, n)` is "the `n`-bit string of the unsigned number `v mod 2^n`, most significant bit first" (R10). -/
def bin (v : Nat) : Nat → Bits
  | 0 => []
  | n + 1 => v.testBit n :: bin v n

/-- "`zigzag(v) = -2v` if `v <= 0`, and `2v - 1` if `v > 0`" (R101). -/
def zigzag (v : Int) : Nat := if v ≤ 0 then (-2 * v).toNat else (2 * v - 1).toNat

/-- The order-0 code of `q` with polarity `p` (R102): "`eg0(q, p) = rep(p, M) ++ [1 - p] ++ bin(q + 1, M)`". -/
def eg0 (q : Nat) (p : Bool) : Bits :=
  let m := Nat.log2 (q + 1)
  rep p m ++ [!p] ++ bin (q + 1) m

/-- The order-`k` code (R103): "`eg(u, k, p) = eg0(u >> k, p) ++ bin(u mod 2^k, k)`". -/
def eg (u k : Nat) (p : Bool) : Bits := eg0 (u >>> k) p ++ bin (u % 2 ^ k) k

/-- The unary code: `n` ones closed by a zero (R121, R133). -/
def unary (n : Nat) : Bits := rep true n ++ [false]

/-- Truncated unary (R120): "if `n < cMax`: `rep(1, n) ++ [0]` else: `rep(1, cMax)`". -/
def tu (n cMax : Nat) : Bits := if n < cMax then unary n else rep true cMax

/-- `level_prefix`: `p` zeros followed by one 1 (R274). -/
def levelPrefixBits (p : Nat) : Bits := rep false p ++ [true]

end Sys2Proof.Machine
end

