-- ==== Sys2Proof/Machine/TypeTables.lean ====
section
/-!
DEFINITION. The type tables of 47_type_tables.md: `MB_CLASS_TABLE`, `SUB_MB_CLASS_TABLE`, `MB_TYPE_BIN_TABLE`,
`SUB_MB_TYPE_BIN_TABLE`, each the spec's default (R8), held as data. Log entry 10.
-/

namespace Sys2Proof.Machine

/-- The code of a prediction mode (R333). -/
def PredMode.code : PredMode → Nat
  | .intra4x4 => 0
  | .intra8x8 => 1
  | .intra16x16 => 2
  | .predL0 => 3
  | .predL1 => 4
  | .biPred => 5
  | .direct => 6
  | .na => 7

/-- Width in luma samples (R334 to R337). -/
def BlockSize.width : BlockSize → Nat
  | .s16x16 => 16
  | .s16x8 => 16
  | .s8x16 => 8
  | .s8x8 => 8
  | .s8x4 => 8
  | .s4x8 => 4
  | .s4x4 => 4

/-- Height in luma samples (R334 to R337). -/
def BlockSize.height : BlockSize → Nat
  | .s16x16 => 16
  | .s16x8 => 8
  | .s8x16 => 16
  | .s8x8 => 8
  | .s8x4 => 4
  | .s4x8 => 8
  | .s4x4 => 4

/-- The intra rows of `MB_CLASS_TABLE`, `MbT` 0 to 26 (R334). -/
def intraClasses : List MbClass :=
  [⟨true, 1, .intra4x4, .na, .s16x16⟩] ++
  List.replicate 24 ⟨true, 1, .intra16x16, .na, .s16x16⟩ ++
  [⟨true, 1, .na, .na, .s16x16⟩, ⟨true, 1, .intra4x4, .na, .s16x16⟩]

/-- The P rows of `MB_CLASS_TABLE`, `MbT` 27 to 32 (R335). -/
def pClasses : List MbClass :=
  [⟨false, 1, .predL0, .na, .s16x16⟩,
   ⟨false, 2, .predL0, .predL0, .s16x8⟩,
   ⟨false, 2, .predL0, .predL0, .s8x16⟩,
   ⟨false, 4, .na, .na, .s8x8⟩,
   ⟨false, 4, .na, .na, .s8x8⟩,
   ⟨false, 1, .predL0, .na, .s16x16⟩]

/-- The B rows of `MB_CLASS_TABLE`, `MbT` 33 to 56 (R336). -/
def bClasses : List MbClass :=
  [⟨false, 4, .direct, .na, .s8x8⟩,
   ⟨false, 1, .predL0, .na, .s16x16⟩,
   ⟨false, 1, .predL1, .na, .s16x16⟩,
   ⟨false, 1, .biPred, .na, .s16x16⟩,
   ⟨false, 2, .predL0, .predL0, .s16x8⟩,
   ⟨false, 2, .predL0, .predL0, .s8x16⟩,
   ⟨false, 2, .predL1, .predL1, .s16x8⟩,
   ⟨false, 2, .predL1, .predL1, .s8x16⟩,
   ⟨false, 2, .predL0, .predL1, .s16x8⟩,
   ⟨false, 2, .predL0, .predL1, .s8x16⟩,
   ⟨false, 2, .predL1, .predL0, .s16x8⟩,
   ⟨false, 2, .predL1, .predL0, .s8x16⟩] ++
  [⟨false, 2, .predL0, .biPred, .s16x8⟩,
   ⟨false, 2, .predL0, .biPred, .s8x16⟩,
   ⟨false, 2, .predL1, .biPred, .s16x8⟩,
   ⟨false, 2, .predL1, .biPred, .s8x16⟩,
   ⟨false, 2, .biPred, .predL0, .s16x8⟩,
   ⟨false, 2, .biPred, .predL0, .s8x16⟩,
   ⟨false, 2, .biPred, .predL1, .s16x8⟩,
   ⟨false, 2, .biPred, .predL1, .s8x16⟩,
   ⟨false, 2, .biPred, .biPred, .s16x8⟩,
   ⟨false, 2, .biPred, .biPred, .s8x16⟩,
   ⟨false, 4, .na, .na, .s8x8⟩,
   ⟨false, 4, .direct, .na, .s8x8⟩]

/-- The default of `MB_CLASS_TABLE`, by `MbT` (R334 to R336). -/
def mbClasses : Vector MbClass 57 := ⟨(intraClasses ++ pClasses ++ bClasses).toArray, rfl⟩

/-- The rows of `SUB_MB_CLASS_TABLE`, `SubT` 0 to 16 (R337). -/
def subClasses : List SubMbClass :=
  [⟨1, .predL0, .s8x8⟩, ⟨2, .predL0, .s8x4⟩, ⟨2, .predL0, .s4x8⟩, ⟨4, .predL0, .s4x4⟩,
   ⟨4, .direct, .s4x4⟩,
   ⟨1, .predL0, .s8x8⟩, ⟨1, .predL1, .s8x8⟩, ⟨1, .biPred, .s8x8⟩,
   ⟨2, .predL0, .s8x4⟩, ⟨2, .predL0, .s4x8⟩, ⟨2, .predL1, .s8x4⟩, ⟨2, .predL1, .s4x8⟩,
   ⟨2, .biPred, .s8x4⟩, ⟨2, .biPred, .s4x8⟩,
   ⟨4, .predL0, .s4x4⟩, ⟨4, .predL1, .s4x4⟩, ⟨4, .biPred, .s4x4⟩]

/-- The default of `SUB_MB_CLASS_TABLE`, by `SubT` (R337). -/
def subMbClasses : Vector SubMbClass 17 := ⟨subClasses.toArray, rfl⟩

/-! The names of R330 that rules single out. -/

/-- `I_NxN`. -/
def iNxN : MbT := 0
/-- `I_PCM`. -/
def iPcm : MbT := 25
/-- `P_8x8`. -/
def p8x8 : MbT := 30
/-- `P_8x8ref0`. -/
def p8x8ref0 : MbT := 31
/-- `P_Skip`. -/
def pSkip : MbT := 32
/-- `B_Direct_16x16`. -/
def bDirect16x16 : MbT := 33
/-- `B_8x8`. -/
def b8x8 : MbT := 55
/-- `B_Skip`. -/
def bSkip : MbT := 56

/-- An `I_16x16` type, `MbT` 1 to 24 (R330). -/
def MbT.isI16x16 (t : MbT) : Bool := decide (1 ≤ t.val ∧ t.val ≤ 24)

/-- A type whose modes are given per sub-macroblock: `P_8x8`, `P_8x8ref0`, `B_8x8` (R165, R167). -/
def MbT.hasSubTypes (t : MbT) : Bool := t == p8x8 || t == p8x8ref0 || t == b8x8

/-- `B_Direct_16x16` or `B_Skip` (R167). -/
def MbT.isDirect (t : MbT) : Bool := t == bDirect16x16 || t == bSkip

/-- The coded block pattern an `I_16x16` type implies (R330, R377):
"`(15 if (T-1)/12 = 1 else 0) | ((((T-1)/4) % 3) << 4)`". -/
def MbT.impliedCbp (t : MbT) : BitVec 6 :=
  let m := t.val - 1
  (if m / 12 = 1 then 15 else 0) ||| (BitVec.ofNat 6 ((m / 4) % 3) <<< 4)

/-- "Types allowed by slice class: I: 0 to 25; SI: 0 to 26; P and SP: 0 to 25 and 27 to 32; B: 0 to 25 and 33 to 56"
(R377). -/
def SliceClass.allows : SliceClass → MbT → Bool
  | .i, t => decide (t.val ≤ 25)
  | .si, t => decide (t.val ≤ 26)
  | .p, t => decide (t.val ≤ 25 ∨ (27 ≤ t.val ∧ t.val ≤ 32))
  | .sp, t => decide (t.val ≤ 25 ∨ (27 ≤ t.val ∧ t.val ≤ 32))
  | .b, t => decide (t.val ≤ 25 ∨ 33 ≤ t.val)

/-- A sub-type that fits the macroblock type: "a P sub-type 0 to 3 in `B_8x8`, a B sub-type 4 to 16 in `P_8x8` or
`P_8x8ref0`" does not (R167). -/
def SubT.fits (st : SubT) (t : MbT) : Bool := if t = b8x8 then decide (4 ≤ st.val) else decide (st.val ≤ 3)

/-! ## Binarization tables -/

/-- `MB_TYPE_BIN_TABLE` for I slices, by value (R340). -/
def iTypeCodes : List Bits :=
  [bin 0b0 1] ++
  [bin 0b100000 6, bin 0b100001 6, bin 0b100010 6, bin 0b100011 6,
   bin 0b1001000 7, bin 0b1001001 7, bin 0b1001010 7, bin 0b1001011 7,
   bin 0b1001100 7, bin 0b1001101 7, bin 0b1001110 7, bin 0b1001111 7] ++
  [bin 0b101000 6, bin 0b101001 6, bin 0b101010 6, bin 0b101011 6,
   bin 0b1011000 7, bin 0b1011001 7, bin 0b1011010 7, bin 0b1011011 7,
   bin 0b1011100 7, bin 0b1011101 7, bin 0b1011110 7, bin 0b1011111 7] ++
  [bin 0b11 2]

/-- The P and SP rows below the intra range, by value; `P_8x8ref0` (4) has no code (R342). -/
def pTypeCodes : List (Option Bits) :=
  [some (bin 0b000 3), some (bin 0b011 3), some (bin 0b010 3), some (bin 0b001 3), none]

/-- The B rows below the intra range, by value (R343). -/
def bTypeCodes : List (Option Bits) :=
  [some (bin 0b0 1), some (bin 0b100 3), some (bin 0b101 3),
   some (bin 0b110000 6), some (bin 0b110001 6), some (bin 0b110010 6), some (bin 0b110011 6),
   some (bin 0b110100 6), some (bin 0b110101 6), some (bin 0b110110 6), some (bin 0b110111 6),
   some (bin 0b111110 6)] ++
  [some (bin 0b1110000 7), some (bin 0b1110001 7), some (bin 0b1110010 7), some (bin 0b1110011 7),
   some (bin 0b1110100 7), some (bin 0b1110101 7), some (bin 0b1110110 7), some (bin 0b1110111 7),
   some (bin 0b1111000 7), some (bin 0b1111001 7), some (bin 0b111111 6)]

/-- The SI row below the intra range (R345). -/
def siTypeCodes : List (Option Bits) := [some (bin 0b0 1)]

/-- A row of a slice that is not an I slice: its own entries with `nested = 0`, then the nesting prefix and each I-slice
code with `nested = 1` (R125, R344). -/
def nestedRow (own : List (Option Bits)) (pre : Bits) : List (Option (Bits × Bool)) :=
  own.map (fun e => e.map fun c => (c, false)) ++ iTypeCodes.map fun c => some (pre ++ c, true)

/-- The default of `MB_TYPE_BIN_TABLE`: the bits and `nested` of an mb_type value (R340 to R345). -/
def mbTypeBins : BySlice (Bits × Bool) where
  p := nestedRow pTypeCodes [true]
  b := nestedRow bTypeCodes [true, true, true, true, false, true]
  i := iTypeCodes.map fun c => some (c, false)
  sp := nestedRow pTypeCodes [true]
  si := nestedRow siTypeCodes [true]

/-- The P and SP rows of `SUB_MB_TYPE_BIN_TABLE` (R347). -/
def pSubTypeCodes : List Bits := [bin 0b1 1, bin 0b00 2, bin 0b011 3, bin 0b010 3]

/-- The B rows of `SUB_MB_TYPE_BIN_TABLE` (R347). -/
def bSubTypeCodes : List Bits :=
  [bin 0b0 1, bin 0b100 3, bin 0b101 3, bin 0b11000 5, bin 0b11001 5, bin 0b11010 5, bin 0b11011 5,
   bin 0b111000 6, bin 0b111001 6, bin 0b111010 6, bin 0b111011 6, bin 0b11110 5, bin 0b11111 5]

/-- The default of `SUB_MB_TYPE_BIN_TABLE` (R347): "I and SI slices have no entry". -/
def subMbTypeBins : BySlice Bits where
  p := pSubTypeCodes.map some
  b := bSubTypeCodes.map some
  i := []
  sp := pSubTypeCodes.map some
  si := []

end Sys2Proof.Machine
end

