-- ==== Sys2Proof/Machine/VlcTables.lean ====
section
/-!
DEFINITION. The CAVLC code tables of 46_vlc_tables.md, the spec's defaults of `COEFF_TOKEN_TABLE`, `TOTAL_ZEROS_TABLE`
and `RUN_BEFORE_TABLE` (R8, R317), held as data (R300). An entry past the end of its row or column is absent. Log
entry 10.
-/

namespace Sys2Proof.Machine

/-- `COEFF_TOKEN_TABLE[N0]`, used when `0 <= nC < 2` (R301): rows `total_coeff`, in a row by `trailing_ones`. -/
def coeffTokenN0 : List (List Bits) :=
  [[bin 0b1 1],
   [bin 0b000101 6, bin 0b01 2],
   [bin 0b00000111 8, bin 0b000100 6, bin 0b001 3],
   [bin 0b000000111 9, bin 0b00000110 8, bin 0b0000101 7, bin 0b00011 5],
   [bin 0b0000000111 10, bin 0b000000110 9, bin 0b00000101 8, bin 0b000011 6],
   [bin 0b00000000111 11, bin 0b0000000110 10, bin 0b000000101 9, bin 0b0000100 7],
   [bin 0b0000000001111 13, bin 0b00000000110 11, bin 0b0000000101 10, bin 0b00000100 8],
   [bin 0b0000000001011 13, bin 0b0000000001110 13, bin 0b00000000101 11, bin 0b000000100 9],
   [bin 0b0000000001000 13, bin 0b0000000001010 13, bin 0b0000000001101 13, bin 0b0000000100 10]] ++
  [[bin 0b00000000001111 14, bin 0b00000000001110 14, bin 0b0000000001001 13, bin 0b00000000100 11],
   [bin 0b00000000001011 14, bin 0b00000000001010 14, bin 0b00000000001101 14, bin 0b0000000001100 13],
   [bin 0b000000000001111 15, bin 0b000000000001110 15, bin 0b00000000001001 14, bin 0b00000000001100 14],
   [bin 0b000000000001011 15, bin 0b000000000001010 15, bin 0b000000000001101 15, bin 0b00000000001000 14],
   [bin 0b0000000000001111 16, bin 0b000000000000001 15, bin 0b000000000001001 15, bin 0b000000000001100 15],
   [bin 0b0000000000001011 16, bin 0b0000000000001110 16, bin 0b0000000000001101 16, bin 0b000000000001000 15],
   [bin 0b0000000000000111 16, bin 0b0000000000001010 16, bin 0b0000000000001001 16, bin 0b0000000000001100 16],
   [bin 0b0000000000000100 16, bin 0b0000000000000110 16, bin 0b0000000000000101 16, bin 0b0000000000001000 16]]

/-- `COEFF_TOKEN_TABLE[N2]`, used when `2 <= nC < 4` (R302): rows `total_coeff`, in a row by `trailing_ones`. -/
def coeffTokenN2 : List (List Bits) :=
  [[bin 0b11 2],
   [bin 0b001011 6, bin 0b10 2],
   [bin 0b000111 6, bin 0b00111 5, bin 0b011 3],
   [bin 0b0000111 7, bin 0b001010 6, bin 0b001001 6, bin 0b0101 4],
   [bin 0b00000111 8, bin 0b000110 6, bin 0b000101 6, bin 0b0100 4],
   [bin 0b00000100 8, bin 0b0000110 7, bin 0b0000101 7, bin 0b00110 5],
   [bin 0b000000111 9, bin 0b00000110 8, bin 0b00000101 8, bin 0b001000 6],
   [bin 0b00000001111 11, bin 0b000000110 9, bin 0b000000101 9, bin 0b000100 6],
   [bin 0b00000001011 11, bin 0b00000001110 11, bin 0b00000001101 11, bin 0b0000100 7]] ++
  [[bin 0b000000001111 12, bin 0b00000001010 11, bin 0b00000001001 11, bin 0b000000100 9],
   [bin 0b000000001011 12, bin 0b000000001110 12, bin 0b000000001101 12, bin 0b00000001100 11],
   [bin 0b000000001000 12, bin 0b000000001010 12, bin 0b000000001001 12, bin 0b00000001000 11],
   [bin 0b0000000001111 13, bin 0b0000000001110 13, bin 0b0000000001101 13, bin 0b000000001100 12],
   [bin 0b0000000001011 13, bin 0b0000000001010 13, bin 0b0000000001001 13, bin 0b0000000001100 13],
   [bin 0b0000000000111 13, bin 0b00000000001011 14, bin 0b0000000000110 13, bin 0b0000000001000 13],
   [bin 0b00000000001001 14, bin 0b00000000001000 14, bin 0b00000000001010 14, bin 0b0000000000001 13],
   [bin 0b00000000000111 14, bin 0b00000000000110 14, bin 0b00000000000101 14, bin 0b00000000000100 14]]

/-- `COEFF_TOKEN_TABLE[N4]`, used when `4 <= nC < 8` (R303): rows `total_coeff`, in a row by `trailing_ones`. -/
def coeffTokenN4 : List (List Bits) :=
  [[bin 0b1111 4],
   [bin 0b001111 6, bin 0b1110 4],
   [bin 0b001011 6, bin 0b01111 5, bin 0b1101 4],
   [bin 0b001000 6, bin 0b01100 5, bin 0b01110 5, bin 0b1100 4],
   [bin 0b0001111 7, bin 0b01010 5, bin 0b01011 5, bin 0b1011 4],
   [bin 0b0001011 7, bin 0b01000 5, bin 0b01001 5, bin 0b1010 4],
   [bin 0b0001001 7, bin 0b001110 6, bin 0b001101 6, bin 0b1001 4],
   [bin 0b0001000 7, bin 0b001010 6, bin 0b001001 6, bin 0b1000 4],
   [bin 0b00001111 8, bin 0b0001110 7, bin 0b0001101 7, bin 0b01101 5]] ++
  [[bin 0b00001011 8, bin 0b00001110 8, bin 0b0001010 7, bin 0b001100 6],
   [bin 0b000001111 9, bin 0b00001010 8, bin 0b00001101 8, bin 0b0001100 7],
   [bin 0b000001011 9, bin 0b000001110 9, bin 0b00001001 8, bin 0b00001100 8],
   [bin 0b000001000 9, bin 0b000001010 9, bin 0b000001101 9, bin 0b00001000 8],
   [bin 0b0000001101 10, bin 0b000000111 9, bin 0b000001001 9, bin 0b000001100 9],
   [bin 0b0000001001 10, bin 0b0000001100 10, bin 0b0000001011 10, bin 0b0000001010 10],
   [bin 0b0000000101 10, bin 0b0000001000 10, bin 0b0000000111 10, bin 0b0000000110 10],
   [bin 0b0000000001 10, bin 0b0000000100 10, bin 0b0000000011 10, bin 0b0000000010 10]]

/-- `COEFF_TOKEN_TABLE[N8]`, used when `nC >= 8` (R304): rows `total_coeff`, in a row by `trailing_ones`. -/
def coeffTokenN8 : List (List Bits) :=
  [[bin 0b000011 6],
   [bin 0b000000 6, bin 0b000001 6],
   [bin 0b000100 6, bin 0b000101 6, bin 0b000110 6],
   [bin 0b001000 6, bin 0b001001 6, bin 0b001010 6, bin 0b001011 6],
   [bin 0b001100 6, bin 0b001101 6, bin 0b001110 6, bin 0b001111 6],
   [bin 0b010000 6, bin 0b010001 6, bin 0b010010 6, bin 0b010011 6],
   [bin 0b010100 6, bin 0b010101 6, bin 0b010110 6, bin 0b010111 6],
   [bin 0b011000 6, bin 0b011001 6, bin 0b011010 6, bin 0b011011 6],
   [bin 0b011100 6, bin 0b011101 6, bin 0b011110 6, bin 0b011111 6]] ++
  [[bin 0b100000 6, bin 0b100001 6, bin 0b100010 6, bin 0b100011 6],
   [bin 0b100100 6, bin 0b100101 6, bin 0b100110 6, bin 0b100111 6],
   [bin 0b101000 6, bin 0b101001 6, bin 0b101010 6, bin 0b101011 6],
   [bin 0b101100 6, bin 0b101101 6, bin 0b101110 6, bin 0b101111 6],
   [bin 0b110000 6, bin 0b110001 6, bin 0b110010 6, bin 0b110011 6],
   [bin 0b110100 6, bin 0b110101 6, bin 0b110110 6, bin 0b110111 6],
   [bin 0b111000 6, bin 0b111001 6, bin 0b111010 6, bin 0b111011 6],
   [bin 0b111100 6, bin 0b111101 6, bin 0b111110 6, bin 0b111111 6]]

/-- `COEFF_TOKEN_TABLE[CDC420]`, used when `nC = -1` (R305): rows `total_coeff`, in a row by `trailing_ones`. -/
def coeffTokenCdc420 : List (List Bits) :=
  [[bin 0b01 2],
   [bin 0b000111 6, bin 0b1 1],
   [bin 0b000100 6, bin 0b000110 6, bin 0b001 3],
   [bin 0b000011 6, bin 0b0000011 7, bin 0b0000010 7, bin 0b000101 6],
   [bin 0b000010 6, bin 0b00000011 8, bin 0b00000010 8, bin 0b0000000 7]]

/-- `COEFF_TOKEN_TABLE[CDC422]`, used when `nC = -2` (R306): rows `total_coeff`, in a row by `trailing_ones`. -/
def coeffTokenCdc422 : List (List Bits) :=
  [[bin 0b1 1],
   [bin 0b0001111 7, bin 0b01 2],
   [bin 0b0001110 7, bin 0b0001101 7, bin 0b001 3],
   [bin 0b000000111 9, bin 0b0001100 7, bin 0b0001011 7, bin 0b00001 5],
   [bin 0b000000110 9, bin 0b000000101 9, bin 0b0001010 7, bin 0b000001 6],
   [bin 0b0000000111 10, bin 0b0000000110 10, bin 0b000000100 9, bin 0b0001001 7],
   [bin 0b00000000111 11, bin 0b00000000110 11, bin 0b0000000101 10, bin 0b0001000 7],
   [bin 0b000000000111 12, bin 0b000000000110 12, bin 0b00000000101 11, bin 0b0000000100 10],
   [bin 0b0000000000111 13, bin 0b000000000101 12, bin 0b000000000100 12, bin 0b00000000100 11]]

/-- `TOTAL_ZEROS_TABLE[0]`, maximum coefficient count 4 (R311): columns `tc` from 1, in a column by `total_zeros`. -/
def totalZeros4 : List (List Bits) :=
  [[bin 0b1 1, bin 0b01 2, bin 0b001 3, bin 0b000 3],
   [bin 0b1 1, bin 0b01 2, bin 0b00 2],
   [bin 0b1 1, bin 0b0 1]]

/-- `TOTAL_ZEROS_TABLE[1]`, maximum coefficient count 8 (R312): columns `tc` from 1, in a column by `total_zeros`. -/
def totalZeros8 : List (List Bits) :=
  [[bin 0b1 1, bin 0b010 3, bin 0b011 3, bin 0b0010 4, bin 0b0011 4, bin 0b0001 4, bin 0b00001 5, bin 0b00000 5],
   [bin 0b000 3, bin 0b01 2, bin 0b001 3, bin 0b100 3, bin 0b101 3, bin 0b110 3, bin 0b111 3],
   [bin 0b000 3, bin 0b001 3, bin 0b01 2, bin 0b10 2, bin 0b110 3, bin 0b111 3],
   [bin 0b110 3, bin 0b00 2, bin 0b01 2, bin 0b10 2, bin 0b111 3],
   [bin 0b00 2, bin 0b01 2, bin 0b10 2, bin 0b11 2]] ++
  [[bin 0b00 2, bin 0b01 2, bin 0b1 1],
   [bin 0b0 1, bin 0b1 1]]

/-- `TOTAL_ZEROS_TABLE[2]`, maximum coefficient count 15 or 16 (R310): columns `tc` from 1, in a column by `total_zeros`. -/
def totalZeros16 : List (List Bits) :=
  [[bin 0b1 1, bin 0b011 3, bin 0b010 3, bin 0b0011 4, bin 0b0010 4, bin 0b00011 5, bin 0b00010 5, bin 0b000011 6,
    bin 0b000010 6, bin 0b0000011 7, bin 0b0000010 7, bin 0b00000011 8, bin 0b00000010 8, bin 0b000000011 9,
      bin 0b000000010 9, bin 0b000000001 9],
   [bin 0b111 3, bin 0b110 3, bin 0b101 3, bin 0b100 3, bin 0b011 3, bin 0b0101 4, bin 0b0100 4, bin 0b0011 4,
     bin 0b0010 4, bin 0b00011 5, bin 0b00010 5, bin 0b000011 6, bin 0b000010 6, bin 0b000001 6, bin 0b000000 6],
   [bin 0b0101 4, bin 0b111 3, bin 0b110 3, bin 0b101 3, bin 0b0100 4, bin 0b0011 4, bin 0b100 3, bin 0b011 3,
     bin 0b0010 4, bin 0b00011 5, bin 0b00010 5, bin 0b000001 6, bin 0b00001 5, bin 0b000000 6],
   [bin 0b00011 5, bin 0b111 3, bin 0b0101 4, bin 0b0100 4, bin 0b110 3, bin 0b101 3, bin 0b100 3, bin 0b0011 4,
     bin 0b011 3, bin 0b0010 4, bin 0b00010 5, bin 0b00001 5, bin 0b00000 5],
   [bin 0b0101 4, bin 0b0100 4, bin 0b0011 4, bin 0b111 3, bin 0b110 3, bin 0b101 3, bin 0b100 3, bin 0b011 3,
     bin 0b0010 4, bin 0b00001 5, bin 0b0001 4, bin 0b00000 5]] ++
  [[bin 0b000001 6, bin 0b00001 5, bin 0b111 3, bin 0b110 3, bin 0b101 3, bin 0b100 3, bin 0b011 3, bin 0b010 3,
    bin 0b0001 4, bin 0b001 3, bin 0b000000 6],
   [bin 0b000001 6, bin 0b00001 5, bin 0b101 3, bin 0b100 3, bin 0b011 3, bin 0b11 2, bin 0b010 3, bin 0b0001 4,
     bin 0b001 3, bin 0b000000 6],
   [bin 0b000001 6, bin 0b0001 4, bin 0b00001 5, bin 0b011 3, bin 0b11 2, bin 0b10 2, bin 0b010 3, bin 0b001 3,
     bin 0b000000 6],
   [bin 0b000001 6, bin 0b000000 6, bin 0b0001 4, bin 0b11 2, bin 0b10 2, bin 0b001 3, bin 0b01 2, bin 0b00001 5],
   [bin 0b00001 5, bin 0b00000 5, bin 0b001 3, bin 0b11 2, bin 0b10 2, bin 0b01 2, bin 0b0001 4]] ++
  [[bin 0b0000 4, bin 0b0001 4, bin 0b001 3, bin 0b010 3, bin 0b1 1, bin 0b011 3],
   [bin 0b0000 4, bin 0b0001 4, bin 0b01 2, bin 0b1 1, bin 0b001 3],
   [bin 0b000 3, bin 0b001 3, bin 0b1 1, bin 0b01 2],
   [bin 0b00 2, bin 0b01 2, bin 0b1 1],
   [bin 0b0 1, bin 0b1 1]]

/-- `RUN_BEFORE_TABLE` (R315): columns `z = min(zerosLeft, 7)` from 1, in a column by `run_before`. -/
def runBefores : List (List Bits) :=
  [[bin 0b1 1, bin 0b0 1],
   [bin 0b1 1, bin 0b01 2, bin 0b00 2],
   [bin 0b11 2, bin 0b10 2, bin 0b01 2, bin 0b00 2],
   [bin 0b11 2, bin 0b10 2, bin 0b01 2, bin 0b001 3, bin 0b000 3],
   [bin 0b11 2, bin 0b10 2, bin 0b011 3, bin 0b010 3, bin 0b001 3, bin 0b000 3],
   [bin 0b11 2, bin 0b000 3, bin 0b001 3, bin 0b011 3, bin 0b010 3, bin 0b101 3, bin 0b100 3],
   [bin 0b111 3, bin 0b110 3, bin 0b101 3, bin 0b100 3, bin 0b011 3, bin 0b010 3, bin 0b001 3, bin 0b0001 4,
     bin 0b00001 5, bin 0b000001 6, bin 0b0000001 7, bin 0b00000001 8, bin 0b000000001 9, bin 0b0000000001 10,
     bin 0b00000000001 11]]

/-- A table in which every entry listed is present. -/
def present (t : List (List Bits)) : CodeTable := t.map fun row => row.map some

/-- The default of `COEFF_TOKEN_TABLE` (R301 to R306). -/
def coeffTokens : CoeffTokenTable where
  cdc422 := present coeffTokenCdc422
  cdc420 := present coeffTokenCdc420
  n0 := present coeffTokenN0
  n2 := present coeffTokenN2
  n4 := present coeffTokenN4
  n8 := present coeffTokenN8

/-- The default of `TOTAL_ZEROS_TABLE` (R310 to R312). -/
def totalZeros : TotalZerosTable where
  max4 := present totalZeros4
  max8 := present totalZeros8
  max16 := present totalZeros16

/-- The family of a context `nC >= -2` (R271); none below. -/
def tokenClass (nC : Int) : Option TokenClass :=
  if nC < -2 then none
  else if nC = -2 then some .cdc422
  else if nC = -1 then some .cdc420
  else if nC < 2 then some .n0
  else if nC < 4 then some .n2
  else if nC < 8 then some .n4
  else some .n8

end Sys2Proof.Machine
end

