-- ==== Sys2Proof/Machine/Params.lean ====
section
/-!
DEFINITION. The parameters of R8: their defaults, and looking them up.
-/

namespace Sys2Proof.Machine

/-- The defaults R8 offers: `MAX_MBS` unbounded, `CIP_NAL_TYPES` 2, 3, 4, and the tables of 46_vlc_tables.md and
47_type_tables.md. DESIGN CHOICE, safe for claims over all states, unsafe for runs from reset; log entries 8, 9, 10. -/
def Params.default : Params where
  maxMbs := none
  cipNalTypes := [2, 3, 4]
  coeffTokenTable := coeffTokens
  totalZerosTable := totalZeros
  runBeforeTable := present runBefores
  mbTypeBinTable := mbTypeBins
  subMbTypeBinTable := subMbTypeBins
  mbClassTable := mbClasses
  subMbClassTable := subMbClasses

/-- `n > MAX_MBS` (R376, R190). -/
def Params.overMaxMbs (p : Params) (n : Nat) : Bool :=
  match p.maxMbs with
  | none => false
  | some m => decide (m < n)

/-- `n >= MAX_MBS` (R375, R380). -/
def Params.atMaxMbs (p : Params) (n : Nat) : Bool :=
  match p.maxMbs with
  | none => false
  | some m => decide (m ≤ n)

/-- The row of a slice class. -/
def BySlice.row {α : Type} (t : BySlice α) : SliceClass → List (Option α)
  | .p => t.p
  | .b => t.b
  | .i => t.i
  | .sp => t.sp
  | .si => t.si

/-- The entry of a value, where there is one. -/
def BySlice.entry {α : Type} (t : BySlice α) (sc : SliceClass) (v : Nat) : Option α := (t.row sc)[v]?.join

/-- `MB_TYPE_BIN_TABLE(sc, v)` (R124). -/
def Params.mbTypeBin (p : Params) (sc : SliceClass) (v : Nat) : Option (Bits × Bool) := p.mbTypeBinTable.entry sc v

/-- `SUB_MB_TYPE_BIN_TABLE(sc, v)` (R128). -/
def Params.subMbTypeBin (p : Params) (sc : SliceClass) (v : Nat) : Option Bits := p.subMbTypeBinTable.entry sc v

/-- The row of a macroblock type. -/
def Params.mbClass (p : Params) (t : MbT) : MbClass := p.mbClassTable[t]

/-- The row of a sub-macroblock type. -/
def Params.subMbClass (p : Params) (t : SubT) : SubMbClass := p.subMbClassTable[t]

/-- An intra type (R162): by the intra column of its row (R334), for the default table `MbT` 0 to 26. DEDUCED, safe, log
entry 10. -/
def Params.isIntra (p : Params) (t : MbT) : Bool := (p.mbClass t).intra

/-- An entry of a code table, where present (R300). -/
def CodeTable.entry (t : CodeTable) (i j : Nat) : Option Bits := (t[i]?.bind fun row => row[j]?).join

/-- The table of a context class. -/
def CoeffTokenTable.family (t : CoeffTokenTable) : TokenClass → CodeTable
  | .cdc422 => t.cdc422
  | .cdc420 => t.cdc420
  | .n0 => t.n0
  | .n2 => t.n2
  | .n4 => t.n4
  | .n8 => t.n8

/-- `COEFF_TOKEN_TABLE[cls][tc][t1]`, unless "`tc > 16` or `t1 > 3`" or it is absent (R270). -/
def Params.coeffToken (p : Params) (cls : TokenClass) (tc t1 : Nat) : Option Bits :=
  if 16 < tc ∨ 3 < t1 then none else (p.coeffTokenTable.family cls).entry tc t1

/-- The columns of a class (R276). -/
def TotalZerosTable.columns (t : TotalZerosTable) : CoeffClass → CodeTable
  | .max4 => t.max4
  | .max8 => t.max8
  | .max16 => t.max16

/-- `TOTAL_ZEROS_TABLE[class][tc][tz]`, where present (R276): there is no column `tc = 0`. -/
def Params.totalZeros (p : Params) (c : CoeffClass) (tc tz : Nat) : Option Bits :=
  if tc = 0 then none else (p.totalZerosTable.columns c).entry (tc - 1) tz

/-- `RUN_BEFORE_TABLE[min(zl, 7)][rb]`, unless "`zl = 0` or `rb > zl` or `rb > 14`" (R278) or it is absent (R300). -/
def Params.runBefore (p : Params) (zl rb : Nat) : Option Bits :=
  if zl = 0 ∨ zl < rb ∨ 14 < rb then none else p.runBeforeTable.entry (min zl 7 - 1) rb

end Sys2Proof.Machine
end

