-- ==== Sys2Proof/Machine/State.lean ====
section
/-!
DEFINITION. The state of the block as plain data (R21), the reset state (R56, R430), the fault classes (R400), and
the host's `Fault` and `Refusal`.
-/

namespace Sys2Proof.Machine

/-- The fault and warning classes (R400). Raising one is no stop of the model: it is a next state (R404, R405). -/
inductive FaultClass where
  | configurationError
  | contextDerivationError
  | rangeWarning
  | arithmeticOverflow
  | illegalCommand
  | hostProtocolError
  deriving DecidableEq, Repr

/-- A word store with one entry per index (R30, R60): the entries that differ from 0, by rising index. -/
abbrev Memory := List (Nat × Word)

/-- A TransformBlock whose `total_coeff` has been set, that is one with `valid = 1` (R46). `nC` is `none` while
`ncvalid = 0`. What stands behind a clear valid bit is not represented: DESIGN CHOICE, safe, log entry 12. -/
structure TransformBlock where
  totalCoeff : BitVec 5
  trailingOnes : BitVec 2
  nC : Option Word
  t1sign : Vector Bool 3
  levelPrefix : Vector Word 16
  levelSuffix : Vector Word 16
  levelSuffixSize : Vector (BitVec 6) 16
  totalZeros : BitVec 5
  runBefore : Vector (BitVec 5) 15
  deriving DecidableEq, Repr

/-- A macroblock record (R43). `sub[i]` is `none` while it is `UNINIT`. `tbs` lists the valid TransformBlocks by key,
`16 * category + index` with the indices of R45, the keys rising. -/
structure MbRecord where
  idx : Word
  addr : Word
  type : MbT
  fieldCoded : Bool
  cbp : BitVec 6
  sub : Vector (Option SubT) 4
  t8x8 : Bool
  tbs : List (Nat × TransformBlock)
  deriving DecidableEq, Repr

/-- The derived geometry registers 0x40 to 0x49 (R38). -/
structure Geometry where
  picWidthInMbs : Word
  picHeightInMapUnits : Word
  picSizeInMapUnits : Word
  picHeightInMbs : Word
  picSizeInMbs : Word
  chromaArrayType : Word
  mbWidthC : Word
  mbHeightC : Word
  mbaffFrameFlag : Word
  mapUnitsInSliceGroup0 : Word
  deriving DecidableEq, Repr

/-- The complete state of the block (R21), and the command words issued to it.
`x` the general registers (R22); `written` which of them a command has written since reset (R23);
`cfg` the registers 0x00 to 0x11 (R27); `runLength`, `topLeft`, `bottomRight`, `sliceGroupId` the arrays (R30);
`geo` the derived registers (R38); `map` is `MAP`, `none` while `MAPVALID = 0` (R40); `mbstore` is `MBSTORE` by
slice-local index (R41), its length `MBCOUNT` (R54); `cur` is `CUR`, `none` while `CURVALID = 0` (R42);
`out` and `outLen` are `OUT` and `OUTLEN` (R50); `status`, `faultCmd`, `cmdCnt` (R51, R52, R53);
`port` the command words the host has issued and the block has not yet taken, oldest first (R24; DESIGN CHOICE, log
entry 2); `params` the parameters of R8, which no command changes (log entries 8, 9, 10). -/
structure State where
  x : Vector Word 16
  written : Vector Bool 16
  cfg : Vector Word 18
  runLength : Vector Word 8
  topLeft : Vector Word 8
  bottomRight : Vector Word 8
  sliceGroupId : Memory
  geo : Geometry
  map : Option (List GroupId)
  mbstore : List MbRecord
  cur : Option MbRecord
  out : Bits
  outLen : BitVec 64
  status : Word
  faultCmd : Word
  cmdCnt : Word
  port : List CommandWord
  params : Params
  deriving DecidableEq, Repr

/-- The derived registers after reset: "0 each" (R38). -/
def Geometry.reset : Geometry where
  picWidthInMbs := 0
  picHeightInMapUnits := 0
  picSizeInMapUnits := 0
  picHeightInMbs := 0
  picSizeInMbs := 0
  chromaArrayType := 0
  mbWidthC := 0
  mbHeightC := 0
  mbaffFrameFlag := 0
  mapUnitsInSliceGroup0 := 0

/-- The state after reset (R56, R430). The general registers hold 0: DESIGN CHOICE, unsafe, log entry 1, since the spec leaves
their value unspecified (R23). No command has been issued (R432). The parameters have the
defaults of R8. -/
def State.reset : State where
  x := Vector.replicate 16 0
  written := Vector.replicate 16 false
  cfg := Vector.replicate 18 0
  runLength := Vector.replicate 8 0
  topLeft := Vector.replicate 8 0
  bottomRight := Vector.replicate 8 0
  sliceGroupId := []
  geo := Geometry.reset
  map := none
  mbstore := []
  cur := none
  out := []
  outLen := 0
  status := 0
  faultCmd := 0
  cmdCnt := 0
  port := []
  params := Params.default

/-- Stops of the model with a fault: none. Every fault of the spec is raised into a next state (R404), "so that the
model is total: no command sequence has undefined behaviour" (R403). No constructor, so safe. DEDUCED, log entry 13. -/
inductive Fault where
  deriving DecidableEq, Repr

/-- Stops of the model with a refusal. -/
inductive Refusal where
  /-- Raised only by an arm of `exec` that has no meaning yet: none has been left. Safe. -/
  | notModelled (mnemonic : String)
  deriving DecidableEq, Repr

/-- The answer of a step or of a meaning. -/
abbrev Answer := Host.Outcome State Fault Refusal

/-- What a command does before it retires: its state with all its writes, or the fault class it raises. -/
abbrev Effect := Except FaultClass State

end Sys2Proof.Machine
end

