-- ==== Sys2Proof/Machine/Flags.lean ====
section
/-!
DEFINITION. The fault classes' codes and sticky bits (R400) and every computation over `STATUS` (R51).
There are no arithmetic condition codes (R25).
-/

namespace Sys2Proof.Machine

/-- The code of a class, `STATUS.FAULTCODE` (R400). -/
def FaultClass.code : FaultClass → BitVec 8
  | .configurationError => 1
  | .contextDerivationError => 2
  | .rangeWarning => 3
  | .arithmeticOverflow => 4
  | .illegalCommand => 5
  | .hostProtocolError => 6

/-- The position of a class's sticky bit in `STATUS` (R51, R400). -/
def FaultClass.stickyBit : FaultClass → Nat
  | .configurationError => 1
  | .contextDerivationError => 2
  | .rangeWarning => 3
  | .arithmeticOverflow => 4
  | .illegalCommand => 5
  | .hostProtocolError => 6

/-- "fatal" (R400): every class but `RangeWarning`. -/
def FaultClass.fatal : FaultClass → Bool
  | .rangeWarning => false
  | .configurationError | .contextDerivationError | .arithmeticOverflow | .illegalCommand | .hostProtocolError => true

/-- Bit 0 of a `STATUS` word, `HALT` (R51). -/
def haltBit (status : Word) : Bool := status.getLsbD 0

/-- Bits 15:8 of a `STATUS` word, `FAULTCODE` (R51). -/
def faultCode (status : Word) : BitVec 8 := status.extractLsb' 8 8

/-- `STATUS.HALT` (R51). -/
def State.halted (s : State) : Bool := haltBit s.status

/-- A `STATUS` word with the sticky bit of `f` set (R404 step 3). -/
def withSticky (f : FaultClass) (status : Word) : Word := status ||| (1 <<< f.stickyBit)

/-- A `STATUS` word with `FAULTCODE <- code(f)` and `HALT <- 1` (R404 step 4). -/
def withHalt (f : FaultClass) (status : Word) : Word :=
  (status &&& 0xFFFF00FF) ||| (f.code.setWidth 32 <<< 8) ||| 1

/-- `STATUS` after raising `f`: the sticky bit, and for a fatal class met while `HALT = 0` the code and `HALT` (R404
steps 3 and 4; R402 for `RangeWarning`). -/
def statusAfter (f : FaultClass) (status : Word) : Word :=
  if f.fatal && !haltBit status then withHalt f (withSticky f status) else withSticky f status

end Sys2Proof.Machine
end

