-- ==== Sys2Proof/Machine/Ops.lean ====
section
/-!
DEFINITION. The named operations over the state: general and configuration registers, the word stores, the record
store, the output, retiring a command, raising a fault, the soft reset and taking a command word.
-/

namespace Sys2Proof.Machine

/-! ## Finite maps by rising key -/

/-- The entry under key `k`. -/
def entryAt {α : Type} (k : Nat) : List (Nat × α) → Option α
  | [] => none
  | (j, a) :: rest => if j = k then some a else entryAt k rest

/-- The map with `a` under key `k`. -/
def setEntry {α : Type} (k : Nat) (a : α) : List (Nat × α) → List (Nat × α)
  | [] => [(k, a)]
  | (j, b) :: rest =>
    if k < j then (k, a) :: (j, b) :: rest
    else if k = j then (k, a) :: rest
    else (j, b) :: setEntry k a rest

/-- The map without key `k`. -/
def dropEntry {α : Type} (k : Nat) : List (Nat × α) → List (Nat × α)
  | [] => []
  | (j, b) :: rest => if j = k then rest else (j, b) :: dropEntry k rest

/-- The keys rise strictly. -/
def keysRise {α : Type} : List (Nat × α) → Bool
  | [] => true
  | [_] => true
  | (j, _) :: (k, b) :: rest => decide (j < k) && keysRise ((k, b) :: rest)

/-- What an unlisted index of `SLICE_GROUP_ID` reads as: its reset value (R30). -/
def Memory.unlisted : Word := 0

/-- The word at an index (R61). -/
def Memory.read (m : Memory) (i : Nat) : Word := (entryAt i m).getD Memory.unlisted

/-- The store with `v` at an index, in canonical form (R61). -/
def Memory.write (m : Memory) (i : Nat) (v : Word) : Memory :=
  if v = Memory.unlisted then dropEntry i m else setEntry i v m

/-- The canonical form: indexes rise strictly, and no entry equals what an unlisted index reads as. -/
def Memory.wf (m : Memory) : Bool := keysRise m && m.all fun e => e.2 != Memory.unlisted

/-! ## General registers (R22, R23) -/

/-- `x[r]`. -/
def State.reg (s : State) (r : Reg) : Word := s.x[r]

/-- Some command has written `x[r]` since reset (R23). -/
def State.isWritten (s : State) (r : Reg) : Bool := s.written[r]

/-- `x[r] <- v`: "every command with an `rd` result make a register written" (R23). -/
def State.setReg (s : State) (r : Reg) (v : Word) : State :=
  { s with x := s.x.set r v, written := s.written.set r true }

/-- `x[r] <- n mod 2^32` (R12). -/
def State.setNat (s : State) (r : Reg) (n : Nat) : State := s.setReg r (BitVec.ofNat 32 n)

/-- The register after `r`, of a multi-register result (R83). -/
def regAfter (r : Reg) : Reg := Fin.ofNat 16 (r.val + 1)

/-! ## Configuration registers (R26, R27, R30, R38) -/

/-- `csr[r]` of a writable register. -/
def State.conf (s : State) (r : ConfReg) : Word := s.cfg[r]

/-- `csr[r] <- v` of a writable register: all 32 bits, no check (R26). -/
def State.setConf (s : State) (r : ConfReg) (v : Word) : State := { s with cfg := s.cfg.set r v }

/-- `CHROMA_FORMAT_IDC` (R27). -/
def chromaFormatIdc : ConfReg := 0x00
/-- `SEPARATE_COLOUR_PLANE_FLAG` (R27). -/
def separateColourPlaneFlag : ConfReg := 0x01
/-- `PIC_WIDTH_IN_MBS_MINUS1` (R27). -/
def picWidthInMbsMinus1 : ConfReg := 0x04
/-- `PIC_HEIGHT_IN_MAP_UNITS_MINUS1` (R27). -/
def picHeightInMapUnitsMinus1 : ConfReg := 0x05
/-- `FRAME_MBS_ONLY_FLAG` (R27). -/
def frameMbsOnlyFlag : ConfReg := 0x06
/-- `MB_ADAPTIVE_FRAME_FIELD_FLAG` (R27). -/
def mbAdaptiveFrameFieldFlag : ConfReg := 0x07
/-- `FIELD_PIC_FLAG` (R27). -/
def fieldPicFlag : ConfReg := 0x08
/-- `CONSTRAINED_INTRA_PRED_FLAG` (R27). -/
def constrainedIntraPredFlag : ConfReg := 0x09
/-- `NAL_UNIT_TYPE` (R27). -/
def nalUnitType : ConfReg := 0x0B
/-- `SLICE_TYPE` (R27). -/
def sliceType : ConfReg := 0x0C
/-- `NUM_SLICE_GROUPS_MINUS1` (R27). -/
def numSliceGroupsMinus1 : ConfReg := 0x0D
/-- `SLICE_GROUP_MAP_TYPE` (R27). -/
def sliceGroupMapType : ConfReg := 0x0E
/-- `SLICE_GROUP_CHANGE_DIRECTION_FLAG` (R27). -/
def sliceGroupChangeDirectionFlag : ConfReg := 0x0F
/-- `SLICE_GROUP_CHANGE_RATE_MINUS1` (R27). -/
def sliceGroupChangeRateMinus1 : ConfReg := 0x10
/-- `SLICE_GROUP_CHANGE_CYCLE` (R27). -/
def sliceGroupChangeCycle : ConfReg := 0x11

/-- The derived register 0x40 + `r` (R38). -/
def Geometry.derived (g : Geometry) (r : DerivedReg) : Word :=
  #v[g.picWidthInMbs, g.picHeightInMapUnits, g.picSizeInMapUnits, g.picHeightInMbs, g.picSizeInMbs,
    g.chromaArrayType, g.mbWidthC, g.mbHeightC, g.mbaffFrameFlag, g.mapUnitsInSliceGroup0][r]

/-- `MBCOUNT`: "the number of records in `MBSTORE`" (R54). -/
def State.mbCount (s : State) : Nat := s.mbstore.length

/-- What `CFGRD` reads (R374). -/
def State.readCsr (s : State) : ReadReg → Word
  | .conf r => s.conf r
  | .derived r => s.geo.derived r
  | .status => s.status
  | .faultCmd => s.faultCmd
  | .outLenLow => s.outLen.extractLsb' 0 32
  | .outLenHigh => s.outLen.extractLsb' 32 32
  | .mbCount => BitVec.ofNat 32 s.mbCount
  | .cmdCnt => s.cmdCnt

/-- An index at or past the end of an array: `limit = 8 if fn[1:0] in {0, 1, 2} else MAX_MBS` (R375). -/
def outsideArray (p : Params) : ArrayId → Nat → Bool
  | .runLengthMinus1, i => decide (8 ≤ i)
  | .topLeft, i => decide (8 ≤ i)
  | .bottomRight, i => decide (8 ≤ i)
  | .sliceGroupId, i => p.atMaxMbs i

/-- `array[a][i]` (R61); an index outside an array of eight reads 0 and is never reached. -/
def State.element (s : State) : ArrayId → Nat → Word
  | .runLengthMinus1, i => s.runLength[i]?.getD 0
  | .topLeft, i => s.topLeft[i]?.getD 0
  | .bottomRight, i => s.bottomRight[i]?.getD 0
  | .sliceGroupId, i => Memory.read s.sliceGroupId i

/-- `array[a][i] <- v` (R375). -/
def State.setElement (s : State) (a : ArrayId) (i : Nat) (v : Word) : State :=
  match a with
  | .runLengthMinus1 => { s with runLength := s.runLength.setIfInBounds i v }
  | .topLeft => { s with topLeft := s.topLeft.setIfInBounds i v }
  | .bottomRight => { s with bottomRight := s.bottomRight.setIfInBounds i v }
  | .sliceGroupId => { s with sliceGroupId := Memory.write s.sliceGroupId i v }

/-! ## The record store (R41, R42, R44, R61) -/

/-- The records by slice-local index: the committed ones, then `CUR` while it exists (R42). -/
def State.records (s : State) : List MbRecord := s.mbstore ++ s.cur.toList

/-- The record at a slice-local index: "`i < MBCOUNT` names a committed record, `i = MBCOUNT` with `CURVALID = 1` names
`CUR`" (R160). -/
def State.record (s : State) (i : Nat) : Option MbRecord := s.records[i]?

/-- "`lookup(addr)` returns the slice-local index of the record (committed or `CUR`) whose `addr` equals `addr`, or
`NONE`" (R44). -/
def State.lookup (s : State) (addr : Nat) : Option Nat := s.records.findIdx? fun m => decide (m.addr.toNat = addr)

/-- The TransformBlock under a key, while its `valid = 1` (R45, R46). -/
def MbRecord.block (m : MbRecord) (key : Nat) : Option TransformBlock := entryAt key m.tbs

/-- The record with a TransformBlock under a key. -/
def MbRecord.setBlock (m : MbRecord) (key : Nat) (b : TransformBlock) : MbRecord :=
  { m with tbs := setEntry key b m.tbs }

/-! ## Output (R50, R62, R64) -/

/-- `OUTLEN` grown by `n` bits. Past 2^64 - 1 the spec gives no value (U3): a free one, DESIGN CHOICE, safe, log entry
4. -/
def outLenAfter (outLen : BitVec 64) (n : Nat) : BitVec 64 :=
  if outLen.toNat + n < 2 ^ 64 then outLen + BitVec.ofNat 64 n else Config.outLenPastEnd (outLen.toNat + n)

/-- "the whole pending string is appended to `OUT` and `OUTLEN` grows by its length" (R64). -/
def State.emit (s : State) (bits : Bits) : State :=
  { s with out := s.out ++ bits, outLen := outLenAfter s.outLen bits.length }

/-! ## Retiring, raising, reset -/

/-- `CMDCNT` counts a retired command, modulo 2^32 (R53). -/
def State.retire (s : State) : State := { s with cmdCnt := s.cmdCnt + 1 }

/-- `raise f`, the one operation that takes a fault (R404): of the whole state only `STATUS` and, for a fatal class met
while `HALT = 0`, `FAULTCMD <- CMDCNT` change. A command that raises hands the state it started from, so its output and
writes are discarded (steps 1 and 2) and it is not counted (step 5). There is no handler and no saved pc (R408). -/
def State.raise (s : State) (f : FaultClass) : State :=
  { s with
    status := statusAfter f s.status
    faultCmd := if f.fatal && !s.halted then s.cmdCnt else s.faultCmd }

/-- `SRESET`, the only return from the halted state (R382, R405): "every register and store as after power-on". The
command words not yet taken are input, not state (R21), and stay; so do the parameters. -/
def State.softReset (s : State) : State := { State.reset with port := s.port, params := s.params }

/-- Carries a command out: while `HALT = 1` it is ignored (R405); else it retires with its effect (R53), or raises its
fault from the state it started in (R404). -/
def State.command (s : State) (e : Effect) : Answer :=
  if s.halted then .next s
  else match e with
    | .ok t => .next t.retire
    | .error f => .next (s.raise f)

/-- Carries out a command that is accepted while `HALT = 1` too (R405) and cannot fault: `STATRD`, `CFGRD`. -/
def State.always (t : State) : Answer := .next t.retire

/-- A test of a command, in the order its rule lists it: raise `f` if `bad` (R12, R409). -/
def raiseIf (bad : Bool) (f : FaultClass) : Except FaultClass Unit := if bad then .error f else .ok ()

/-- The value of a lookup, or the fault class its absence raises. -/
def orRaise {α : Type} (f : FaultClass) : Option α → Except FaultClass α
  | some a => .ok a
  | none => .error f

/-- The next command word of the host, and the state that has taken it (R24); none while the host has issued none
(R432). -/
def State.takeCommand (s : State) : Option (CommandWord × State) :=
  match s.port with
  | [] => none
  | w :: rest => some (w, { s with port := rest })

/-- An illegal command word raises `IllegalCommand` "by decoding alone, before any operand is read" (R403). -/
def State.illegalWord (s : State) : Answer := s.command (.error .illegalCommand)

end Sys2Proof.Machine
end

