-- ==== Sys2Proof/Machine/Operands.lean ====
section
/-!
DEFINITION. Every operand form: a register read as unsigned or signed (R11), the slice class (R124), a record index and
a partition index (R160), and the residual categories with their block indices (R45, R260).
-/

namespace Sys2Proof.Machine

/-- `u(x[r])`, 0 to 2^32 - 1 (R11). -/
def State.u (s : State) (r : Reg) : Nat := (s.reg r).toNat

/-- `s(x[r])`, -2^31 to 2^31 - 1 (R11). -/
def State.s (s : State) (r : Reg) : Int := (s.reg r).toInt

/-- The largest number 32 bits hold. -/
def maxWord : Nat := 2 ^ 32 - 1

/-- The class `SLICE_TYPE % 5` of a slice type, "0 P, 1 B, 2 I, 3 SP, 4 SI"; none above 9 (R124). -/
def sliceClassOf (t : Nat) : Option SliceClass :=
  if 9 < t then none
  else match t % 5 with
    | 0 => some .p
    | 1 => some .b
    | 2 => some .i
    | 3 => some .sp
    | _ => some .si

/-- The slice class of the configured `SLICE_TYPE` (R124). -/
def State.sliceClass (s : State) : Option SliceClass := sliceClassOf (s.conf sliceType).toNat

/-- The record a record-index operand names; any other index raises `HostProtocolError` (R160). -/
def State.recordOperand (s : State) (r : Reg) : Except FaultClass MbRecord :=
  orRaise .hostProtocolError (s.record (s.u r))

/-- A partition index: "`p > 3` raises `HostProtocolError`" (R160), tested before the operation's pseudocode: DEDUCED,
unsafe, log entry 22. -/
def State.partOperand (s : State) (r : Reg) : Except FaultClass Nat := do
  raiseIf (decide (3 < s.u r)) .hostProtocolError
  .ok (s.u r)

end Sys2Proof.Machine

/-! ## Residual categories (R260) -/

namespace Sys2Proof

/-- The values of `CHROMA_ARRAY_TYPE` for which a category is legal (R260). -/
def Category.legal (chromaArrayType : Nat) : Category → Bool
  | .intra16x16DC | .intra16x16AC | .luma4x4 => true
  | .cbIntra16x16DC | .cbIntra16x16AC | .cb4x4 | .crIntra16x16DC | .crIntra16x16AC | .cr4x4 =>
    chromaArrayType == 3
  | .chromaDC _ | .chromaAC _ => chromaArrayType == 1 || chromaArrayType == 2

/-- The number of block indices of a category (R260). -/
def Category.blocks (chromaArrayType : Nat) : Category → Nat
  | .intra16x16DC | .cbIntra16x16DC | .crIntra16x16DC | .chromaDC _ => 1
  | .intra16x16AC | .luma4x4 | .cbIntra16x16AC | .cb4x4 | .crIntra16x16AC | .cr4x4 => 16
  | .chromaAC _ => if chromaArrayType = 2 then 8 else 4

/-- `maxNumCoeff` of a category (R260). -/
def Category.maxNumCoeff (chromaArrayType : Nat) : Category → Nat
  | .intra16x16DC | .luma4x4 | .cbIntra16x16DC | .cb4x4 | .crIntra16x16DC | .cr4x4 => 16
  | .intra16x16AC | .cbIntra16x16AC | .crIntra16x16AC | .chromaAC _ => 15
  | .chromaDC _ => if chromaArrayType = 2 then 8 else 4

/-- The index of a category's block in the record: "`tb[code][b]`, for code 9 `tb[9][iCbCr]`, for code 10
`tb[10][iCbCr * 8 + b]`" (R260). -/
def Category.tbIndex (c : Category) (b : Nat) : Nat :=
  match c with
  | .chromaDC k => k.number
  | .chromaAC k => k.number * 8 + b
  | .intra16x16DC | .intra16x16AC | .luma4x4 | .cbIntra16x16DC | .cbIntra16x16AC | .cb4x4 | .crIntra16x16DC
  | .crIntra16x16AC | .cr4x4 => b

/-- The key of a TransformBlock in `MbRecord.tbs`. -/
def Category.key (c : Category) (b : Nat) : Nat := 16 * c.code + c.tbIndex b

/-- A category of the chroma geometry, code 10 (R260, R263). -/
def Category.isChromaAC : Category → Bool
  | .chromaAC _ => true
  | .intra16x16DC | .intra16x16AC | .luma4x4 | .cbIntra16x16DC | .cbIntra16x16AC | .cb4x4 | .crIntra16x16DC
  | .crIntra16x16AC | .cr4x4 | .chromaDC _ => false

/-- "`CUR.type` fits the category: codes 0, 1, 3, 4, 6, 7 need an `I_16x16` type, codes 2, 5, 8 need a type that is not
`I_16x16`; no category is legal for `I_PCM`, `P_Skip`, `B_Skip`" (R261). -/
def Category.fitsType (c : Category) (t : Machine.MbT) : Bool :=
  !(t == Machine.iPcm || t == Machine.pSkip || t == Machine.bSkip) &&
  match c with
  | .intra16x16DC | .intra16x16AC | .cbIntra16x16DC | .cbIntra16x16AC | .crIntra16x16DC | .crIntra16x16AC =>
    t.isI16x16
  | .luma4x4 | .cb4x4 | .cr4x4 => !t.isI16x16
  | .chromaDC _ | .chromaAC _ => true

end Sys2Proof

namespace Sys2Proof.Machine

/-- `CHROMA_ARRAY_TYPE` as a number. -/
def State.chromaArrayType (s : State) : Nat := s.geo.chromaArrayType.toNat

/-- `CUR`, where `CURVALID = 1`; else `HostProtocolError` (R261, R378, R379, R380). -/
def State.curOperand (s : State) : Except FaultClass MbRecord := orRaise .hostProtocolError s.cur

/-- The block index of a category: legal for `CHROMA_ARRAY_TYPE` and in range, else `HostProtocolError` (R261, R379). -/
def State.blockOperand (s : State) (c : Category) (r : Reg) : Except FaultClass Nat := do
  raiseIf (!c.legal s.chromaArrayType) .hostProtocolError
  raiseIf (decide (c.blocks s.chromaArrayType ≤ s.u r)) .hostProtocolError
  .ok (s.u r)

end Sys2Proof.Machine
end

