-- ==== Sys2Proof/Machine/Binarizers.lean ====
section
/-!
DEFINITION. The binarization library: `TU`, `FL`, `MBTYPE`, `SUBMBTYPE`, `CBP`, `MBQPD`, `CALM1`, `UEGK`
(41_binarizers.md).
-/

namespace Sys2Proof.Machine

/-- `TU` (R120). -/
def execTu (ra rb : Reg) (s : State) : Answer :=
  s.command (.ok (s.emit (tu (s.u ra) (s.u rb))))

/-- `FL` (R122): the `width` least significant bits of `n`, zeros above bit 31. -/
def execFl (ra rb : Reg) (s : State) : Answer :=
  s.command (.ok (s.emit (bin (s.u ra) (s.u rb))))

/-- `MBTYPE` (R124). -/
def execMbtype (rd ra : Reg) (s : State) : Answer :=
  s.command do
    let sc ← orRaise .contextDerivationError s.sliceClass
    let row ← orRaise .contextDerivationError (s.params.mbTypeBin sc (s.u ra))
    .ok ((s.emit row.1).setNat rd row.2.toNat)

/-- `SUBMBTYPE` (R128). -/
def execSubmbtype (ra : Reg) (s : State) : Answer :=
  s.command do
    let sc ← orRaise .contextDerivationError s.sliceClass
    let bits ← orRaise .contextDerivationError (s.params.subMbTypeBin sc (s.u ra))
    .ok (s.emit bits)

/-- The binarization of a coded block pattern (R130): "`[luma[0], luma[1], luma[2], luma[3]]`", then `tu(chroma, 2)` when
`CHROMA_ARRAY_TYPE` is 1 or 2. -/
def cbpBits (chromaArrayType v : Nat) : Bits :=
  [v.testBit 0, v.testBit 1, v.testBit 2, v.testBit 3] ++
  if chromaArrayType = 1 ∨ chromaArrayType = 2 then tu (v / 16) 2 else []

/-- `CBP` (R130). -/
def execCbp (ra : Reg) (s : State) : Answer :=
  s.command do
    raiseIf (decide (47 < s.u ra)) .hostProtocolError
    .ok (s.emit (cbpBits s.chromaArrayType (s.u ra)))

/-- `MBQPD` (R132). -/
def execMbqpd (ra : Reg) (s : State) : Answer :=
  s.command do
    let u := zigzag (s.s ra)
    raiseIf (decide (maxWord < u)) .arithmeticOverflow
    .ok (s.emit (unary u))

/-- The binarization of `coeff_abs_level_minus1` (R134). -/
def calm1Bits (v : Nat) : Bits := if v < 14 then unary v else rep true 14 ++ eg (v - 14) 0 true

/-- `CALM1` (R134). -/
def execCalm1 (ra : Reg) (s : State) : Answer :=
  s.command (.ok (s.emit (calm1Bits (s.u ra))))

/-- The sign bit that ends a `UEGK` code (R136): "`if signed and v != 0: emit([0] if v > 0 else [1])`". -/
def uegkSign (signed : Bool) (v : Int) : Bits := if signed && v != 0 then [decide (v < 0)] else []

/-- The bits of `UEGK` (R136): prefix, suffix when `|v| >= ucoff`, sign. -/
def uegkBits (signed : Bool) (k : Nat) (v : Int) (ucoff : Nat) : Bits :=
  tu (min v.natAbs ucoff) ucoff ++
  (if ucoff ≤ v.natAbs then eg (v.natAbs - ucoff) k true else []) ++
  uegkSign signed v

/-- `UEGK` (R136). -/
def execUegk (signed : Bool) (k : Fin 64) (rd ra rb : Reg) (s : State) : Answer :=
  s.command do
    raiseIf (decide (31 < k.val)) .arithmeticOverflow
    let v : Int := if signed then s.s ra else s.u ra
    let ucoff := s.u rb
    raiseIf (decide (ucoff ≤ v.natAbs ∧ maxWord < ((v.natAbs - ucoff) >>> k.val) + 1)) .arithmeticOverflow
    .ok ((s.emit (uegkBits signed k.val v ucoff)).setNat rd (decide (ucoff ≤ v.natAbs)).toNat)

end Sys2Proof.Machine
end

