-- ==== Sys2Proof/Machine/Coder.lean ====
section
/-!
DEFINITION. The primitive integer coder: `EXPG` (40_primitive_coder.md).
-/

namespace Sys2Proof.Machine

/-- `EXPG` (R100): the overflow tests of R104 in the order of the pseudocode, then the order-`k` code. -/
def execExpg (signed reversed : Bool) (k : Fin 64) (ra : Reg) (s : State) : Answer :=
  s.command do
    raiseIf (decide (31 < k.val)) .arithmeticOverflow
    let u := if signed then zigzag (s.s ra) else s.u ra
    raiseIf (decide (maxWord < u)) .arithmeticOverflow
    raiseIf (decide (maxWord < (u >>> k.val) + 1)) .arithmeticOverflow
    .ok (s.emit (eg u k.val reversed))

end Sys2Proof.Machine
end

