-- ==== Sys2Proof/Machine/Classification.lean ====
section
/-!
DEFINITION. Macroblock and partition classification: the eight queries of 42_classification.md.
-/

namespace Sys2Proof.Machine

/-- The prediction mode of partition `p` (R165). -/
def MbRecord.partMode (m : MbRecord) (q : Params) (p : Nat) : PredMode :=
  let row := q.mbClass m.type
  let mode :=
    if m.type = iNxN then
      if p = 0 then (if m.t8x8 then .intra8x8 else .intra4x4) else .na
    else match p with
      | 0 => row.mode0
      | 1 => row.mode1
      | _ => .na
  if row.numPart ≤ p ∧ !m.type.isDirect then .na else mode

/-- The class of sub-macroblock `p` (R167): an `UNINIT` or misfit sub-type, and a type without sub-macroblocks, raise
`ContextDerivationError`; `B_Direct_16x16` and `B_Skip` have four 4 x 4 sub-partitions of mode `Direct` (R167 to
R169). -/
def MbRecord.subClass (m : MbRecord) (q : Params) (p : Nat) : Except FaultClass SubMbClass :=
  if m.type.hasSubTypes then
    match m.sub[p]?.join with
    | some st => if st.fits m.type then .ok (q.subMbClass st) else .error .contextDerivationError
    | none => .error .contextDerivationError
  else if m.type.isDirect then .ok ⟨4, .direct, .s4x4⟩
  else .error .contextDerivationError

/-- "`(width << 8) | height`" (R166, R169). -/
def BlockSize.word (z : BlockSize) : Nat := (z.width <<< 8) ||| z.height

/-- `ISINTRA` (R162). -/
def execIsintra (rd ra : Reg) (s : State) : Answer :=
  s.command do
    let m ← s.recordOperand ra
    .ok (s.setNat rd (s.params.isIntra m.type).toNat)

/-- `ISINTER` (R163). -/
def execIsinter (rd ra : Reg) (s : State) : Answer :=
  s.command do
    let m ← s.recordOperand ra
    .ok (s.setNat rd (!s.params.isIntra m.type).toNat)

/-- `NUMPART` (R164). -/
def execNumpart (rd ra : Reg) (s : State) : Answer :=
  s.command do
    let m ← s.recordOperand ra
    .ok (s.setNat rd (s.params.mbClass m.type).numPart)

/-- `PARTPRED` (R165). -/
def execPartpred (rd ra rb : Reg) (s : State) : Answer :=
  s.command do
    let m ← s.recordOperand ra
    let p ← s.partOperand rb
    .ok (s.setNat rd (m.partMode s.params p).code)

/-- `PARTDIM` (R166). -/
def execPartdim (rd ra : Reg) (s : State) : Answer :=
  s.command do
    let m ← s.recordOperand ra
    .ok (s.setNat rd (s.params.mbClass m.type).size.word)

/-- `NUMSUBPART` (R167). -/
def execNumsubpart (rd ra rb : Reg) (s : State) : Answer :=
  s.command do
    let m ← s.recordOperand ra
    let p ← s.partOperand rb
    let row ← m.subClass s.params p
    .ok (s.setNat rd row.numSubPart)

/-- `SUBPARTPRED` (R168). -/
def execSubpartpred (rd ra rb : Reg) (s : State) : Answer :=
  s.command do
    let m ← s.recordOperand ra
    let p ← s.partOperand rb
    let row ← m.subClass s.params p
    .ok (s.setNat rd row.mode.code)

/-- `SUBPARTDIM` (R169). -/
def execSubpartdim (rd ra rb : Reg) (s : State) : Answer :=
  s.command do
    let m ← s.recordOperand ra
    let p ← s.partOperand rb
    let row ← m.subClass s.params p
    .ok (s.setNat rd row.size.word)

end Sys2Proof.Machine
end

