-- ==== Sys2Proof/Machine/Neighbour.lean ====
section
/-!
DEFINITION. The spatial neighbour resolution engine: `NEIGH`, `BLK2XY`, `XY2BLK`, `XY2PART` (44_neighbour.md).
-/

namespace Sys2Proof.Machine

/-! ## Availability -/

/-- "when `MAPVALID = 1`, address `a` is available only if `MAP[a] = MAP[cur.addr]`; when `MAPVALID = 0` the condition is
void" (R226). -/
def State.sameGroup (s : State) (a b : Nat) : Bool :=
  match s.map with
  | none => true
  | some m => m[a]? == m[b]?

/-- Macroblock address `a` is available to a macroblock at address `curAddr` (R222). -/
def State.available (s : State) (curAddr : Nat) (a : Int) : Bool :=
  decide (0 ≤ a) && decide (a.toNat < s.geo.picSizeInMbs.toNat) && (s.lookup a.toNat).isSome &&
    decide (a.toNat ≤ curAddr) && s.sameGroup a.toNat curAddr

/-- The address `a`, where it is available. -/
def State.ifAvailable (s : State) (curAddr : Nat) (a : Int) : Option Nat :=
  if s.available curAddr a then some a.toNat else none

/-! ## Candidates and regions -/

/-- The region of an offset: "`neg` for `xN < 0`, `in` for `0 .. maxW-1`, `over` for `> maxW-1`" (R232). -/
def regionOf (v : Int) (max : Nat) : Region :=
  if v < 0 then .neg else if v < max then .inside else .over

/-- The address of a candidate at row-and-column position `a` of rows `w` long, where no picture edge is crossed: A, B, C, D
of R223, and with pair numbers for addresses the pairs of R230. `none` names no candidate; `cur` is `a` itself. -/
def candidateAddr (w a : Int) : PairName → Option Int
  | .a => if a % w = 0 then none else some (a - 1)
  | .b => some (a - w)
  | .c => if (a + 1) % w = 0 then none else some (a - w + 1)
  | .d => if a % w = 0 then none else some (a - w - 1)
  | .cur => some a
  | .none => none

/-- Which candidate holds `(xN, yN)` (R224). -/
def candidateAt : Region → Region → PairName
  | .neg, .neg => .d
  | .neg, .inside => .a
  | .inside, .neg => .b
  | .inside, .inside => .cur
  | .over, .neg => .c
  | .over, .inside => .none
  | .neg, .over => .none
  | .inside, .over => .none
  | .over, .over => .none

/-- `(addrN, yM)` in the non-MBAFF regime (R222 to R224): "the current macroblock (always available)". -/
def nonMbaff (s : State) (curAddr : Nat) (xR yR : Region) (yN : Int) : Option (Nat × Int) :=
  match candidateAt xR yR with
  | .cur => some (curAddr, yN)
  | x =>
    (candidateAddr s.geo.picWidthInMbs.toNat curAddr x).bind fun a =>
      (s.ifAvailable curAddr a).map fun n => (n, yN)

/-- `MBAFF_TABLE`'s pair, with the entries that need no table (R233). -/
def mbaffPairAt (xR yR : Region) (currFrame isTop : Bool) : PairName :=
  match xR, yR with
  | _, .over => .none
  | .over, .inside => .none
  | .inside, .inside => .cur
  | .neg, .neg => Config.mbaffPair .neg .neg currFrame isTop
  | .neg, .inside => Config.mbaffPair .neg .inside currFrame isTop
  | .inside, .neg => Config.mbaffPair .inside .neg currFrame isTop
  | .over, .neg => Config.mbaffPair .over .neg currFrame isTop

/-- "`currMbFrameFlag = 1 - cur.field`, unless `frameFlagOverride` is 2 (then 0) or 3 (then 1)" (R231). -/
def currMbFrameFlag (cur : MbRecord) : FrameOverride → Bool
  | .none => !cur.fieldCoded
  | .field => false
  | .frame => true

/-- The top address of a candidate pair: `2 * k` of the pair numbers of R230. -/
def pairTopAddr (w : Nat) (curAddr : Nat) (x : PairName) : Option Int :=
  (candidateAddr w ((curAddr : Int) / 2) x).map fun k => 2 * k

/-- `mbAddrXFrameFlag`: "`1 - field` of the record at its top address" (R231). -/
def State.pairFrameFlag (s : State) (top : Nat) : Bool :=
  match (s.lookup top).bind s.record with
  | some m => !m.fieldCoded
  | none => true

/-- `(addrN, yM)` in the MBAFF regime (R230 to R233). The position inside the current macroblock needs no table; elsewhere
the pair, its availability by its top address (R230; the current pair's too: DEDUCED, log entry 18), then the member and
`yM` of the table. -/
def mbaff (s : State) (cur : MbRecord) (o : FrameOverride) (xR yR : Region) (yN : Int) (maxH : Nat) :
    Option (Nat × Int) :=
  let a := cur.addr.toNat
  let frame := currMbFrameFlag cur o
  let isTop := decide (a % 2 = 0)
  if xR = .inside ∧ yR = .inside then some (a, yN)
  else
    (pairTopAddr s.geo.picWidthInMbs.toNat a (mbaffPairAt xR yR frame isTop)).bind fun t =>
      (s.ifAvailable a t).map fun top =>
        let cell := Config.mbaffCell xR yR frame isTop (s.pairFrameFlag top) yN maxH
        (match cell.member with | .top => top | .bottom => top + 1, cell.yM)

/-- A resolved position: the slice-local index of the macroblock, and `xW`, `yW` inside it (R220). -/
structure Resolved where
  index : Nat
  xW : Nat
  yW : Nat
  deriving DecidableEq, Repr

/-- `(maxW, maxH)` (R220). -/
def State.mbSize (s : State) (chroma : Bool) : Nat × Nat :=
  if chroma then (s.geo.mbWidthC.toNat, s.geo.mbHeightC.toNat) else (16, 16)

/-- The neighbour engine (R220): the position `(xN, yN)` relative to the macroblock `cur`; `none` is "not available". So is
the second macroblock of an available pair while it is not in the store: DESIGN CHOICE, unsafe, log entry 6. Remainders
are from 0 up: DEDUCED, safe, log entry 15. -/
def neighbour (s : State) (cur : MbRecord) (chroma : Bool) (o : FrameOverride) (xN yN : Int) :
    Except FaultClass (Option Resolved) := do
  let maxW := (s.mbSize chroma).1
  let maxH := (s.mbSize chroma).2
  raiseIf (chroma && s.geo.chromaArrayType == 0) .hostProtocolError
  raiseIf (s.geo.picWidthInMbs == 0) .hostProtocolError
  raiseIf (!decide (-(maxW : Int) ≤ xN ∧ xN ≤ 2 * maxW - 1 ∧ -(maxH : Int) ≤ yN ∧ yN ≤ 2 * maxH - 1))
    .hostProtocolError
  let xR := regionOf xN maxW
  let yR := regionOf yN maxH
  let found :=
    if s.geo.mbaffFrameFlag = 0 then nonMbaff s cur.addr.toNat xR yR yN else mbaff s cur o xR yR yN maxH
  .ok (found.bind fun (addrN, yM) =>
    (s.lookup addrN).map fun i =>
      { index := i, xW := ((xN + maxW) % maxW).toNat, yW := ((yM + maxH) % maxH).toNat })

/-- The three results of `NEIGH` (R220): "the slice-local index", `xW`, `yW`, or `0xFFFFFFFF`, 0, 0. -/
def State.setResolved (s : State) (rd : Reg) : Option Resolved → State
  | some n => ((s.setNat rd n.index).setNat (regAfter rd) n.xW).setNat (regAfter (regAfter rd)) n.yW
  | none => ((s.setReg rd 0xFFFFFFFF).setReg (regAfter rd) 0).setReg (regAfter (regAfter rd)) 0

/-- `NEIGH` (R220); "`rd > 13` for `NEIGH` ... is an illegal command" (R83). -/
def execNeigh (chroma : Bool) (o : FrameOverride) (rd ra rb rc : Reg) (s : State) : Answer :=
  s.command do
    raiseIf (decide (13 < rd.val)) .illegalCommand
    let cur ← s.recordOperand ra
    let n ← neighbour s cur chroma o (s.s rb) (s.s rc)
    .ok (s.setResolved rd n)

/-! ## Block index and position (R240, R241) -/

/-- Kind 2 is for `CHROMA_ARRAY_TYPE` 1 and 2 only (R240). -/
def State.kindLegal (s : State) : BlkKind → Bool
  | .luma4x4 => true
  | .luma8x8 => true
  | .chroma4x4 => s.chromaArrayType != 0 && s.chromaArrayType != 3

/-- The number of block indices of a kind (R240). -/
def State.kindBlocks (s : State) : BlkKind → Nat
  | .luma4x4 => 16
  | .luma8x8 => 4
  | .chroma4x4 => s.geo.mbHeightC.toNat / 2

/-- The position of the upper-left sample of a block (R240). -/
def blockXY : BlkKind → Nat → Nat × Nat
  | .luma4x4, b => (((b / 4) % 2) * 8 + ((b % 4) % 2) * 4, ((b / 4) / 2) * 8 + ((b % 4) / 2) * 4)
  | .luma8x8, b => ((b % 2) * 8, (b / 2) * 8)
  | .chroma4x4, b => ((b % 2) * 4, (b / 2) * 4)

/-- The index of the block that holds a position (R241). -/
def blockAt : BlkKind → Nat → Nat → Nat
  | .luma4x4, x, y => 8 * (y / 8) + 4 * (x / 8) + 2 * ((y % 8) / 4) + ((x % 8) / 4)
  | .luma8x8, x, y => 2 * (y / 8) + (x / 8)
  | .chroma4x4, x, y => 2 * (y / 4) + (x / 4)

/-- A position inside a macroblock, of the kind's channel (R241). -/
def State.positionLegal (s : State) (k : BlkKind) (x y : Nat) : Bool :=
  match k with
  | .luma4x4 => decide (x ≤ 15 ∧ y ≤ 15)
  | .luma8x8 => decide (x ≤ 15 ∧ y ≤ 15)
  | .chroma4x4 => decide (x < s.geo.mbWidthC.toNat ∧ y < s.geo.mbHeightC.toNat)

/-- `BLK2XY` (R240); "`rd > 14` for `BLK2XY` ... is an illegal command" (R83). -/
def execBlk2xy (kind : BlkKind) (rd ra : Reg) (s : State) : Answer :=
  s.command do
    raiseIf (decide (14 < rd.val)) .illegalCommand
    raiseIf (!s.kindLegal kind) .hostProtocolError
    raiseIf (decide (s.kindBlocks kind ≤ s.u ra)) .hostProtocolError
    let p := blockXY kind (s.u ra)
    .ok ((s.setNat rd p.1).setNat (regAfter rd) p.2)

/-- `XY2BLK` (R241). -/
def execXy2blk (kind : BlkKind) (rd ra rb : Reg) (s : State) : Answer :=
  s.command do
    raiseIf (!s.kindLegal kind) .hostProtocolError
    raiseIf (!s.positionLegal kind (s.u ra) (s.u rb)) .hostProtocolError
    .ok (s.setNat rd (blockAt kind (s.u ra) (s.u rb)))

/-- `mbPartIdx` of a luma position (R242), 0 in an intra type as `Params.isIntra` reads that (log entry 10, DEDUCED). -/
def MbRecord.partAt (m : MbRecord) (q : Params) (x y : Nat) : Nat :=
  let row := q.mbClass m.type
  if q.isIntra m.type then 0 else (16 / row.size.width) * (y / row.size.height) + (x / row.size.width)

/-- `subMbPartIdx` of a luma position (R242). -/
def MbRecord.subPartAt (m : MbRecord) (q : Params) (x y : Nat) : Except FaultClass Nat :=
  if m.type.hasSubTypes then do
    let sub ← m.subClass q (m.partAt q x y)
    .ok ((8 / sub.size.width) * ((y % 8) / sub.size.height) + ((x % 8) / sub.size.width))
  else if m.type.isDirect then .ok (2 * ((y % 8) / 4) + ((x % 8) / 4))
  else .ok 0

/-- `XY2PART` (R242); "`rd > 14` for `BLK2XY` and `XY2PART`, is an illegal command" (R83). The test of `x` and `y`, which is
not in R242's pseudocode, comes before it, so a position outside the macroblock raises `HostProtocolError` where the
sub-type would raise `ContextDerivationError`: DESIGN CHOICE, unsafe, log entry 22. -/
def execXy2part (rd ra rb rc : Reg) (s : State) : Answer :=
  s.command do
    raiseIf (decide (14 < rd.val)) .illegalCommand
    let m ← s.recordOperand ra
    raiseIf (decide (15 < s.u rb ∨ 15 < s.u rc)) .hostProtocolError
    let sub ← m.subPartAt s.params (s.u rb) (s.u rc)
    .ok ((s.setNat rd (m.partAt s.params (s.u rb) (s.u rc))).setNat (regAfter rd) sub)

end Sys2Proof.Machine
end

