-- ==== Sys2Proof/Machine/Residual.lean ====
section
/-!
DEFINITION. The CAVLC residual encoder: `NC`, `COEFFTOKEN`, `LEVELPFX`, `TOTALZEROS`, `RUNBEFORE`, `RESBLK`
(45_cavlc_residual.md).
-/

namespace Sys2Proof.Machine

/-! ## The context nC (R261 to R264) -/

/-- The preconditions of `NC` and `RESBLK`, "tested in this order" (R261): `CUR` and the block index. -/
def State.residualOperand (s : State) (c : Category) (r : Reg) : Except FaultClass (MbRecord × Nat) := do
  let m ← s.curOperand
  let b ← s.blockOperand c r
  raiseIf (!c.fitsType m.type) .hostProtocolError
  .ok (m, b)

/-- The kind of a category's geometry: chroma 4x4 for code 10, else luma 4x4 (R260, R263). -/
def contextKind (c : Category) : BlkKind := if c.isChromaAC then .chroma4x4 else .luma4x4

/-- The category of the neighbour's block that counts: the AC block of an `I_16x16` neighbour, else the 4x4 block, of the
same colour; for code 10 the same category (R264 row 6). -/
def contextCategory (c : Category) (neighbourI16x16 : Bool) : Category :=
  match c with
  | .intra16x16DC | .intra16x16AC | .luma4x4 => if neighbourI16x16 then .intra16x16AC else .luma4x4
  | .cbIntra16x16DC | .cbIntra16x16AC | .cb4x4 => if neighbourI16x16 then .cbIntra16x16AC else .cb4x4
  | .crIntra16x16DC | .crIntra16x16AC | .cr4x4 => if neighbourI16x16 then .crIntra16x16AC else .cr4x4
  | .chromaDC k => .chromaDC k
  | .chromaAC k => .chromaAC k

/-- "the coded-block-pattern of `mbN` says block `bN` has no residual of this kind" (R264 row 5):
"`((mbN.cbp & 15) >> (bN / 4)) & 1 = 0`" for the luma geometry, "`(mbN.cbp >> 4) != 2`" for code 10. -/
def noResidual (c : Category) (mbN : MbRecord) (bN : Nat) : Bool :=
  if c.isChromaAC then mbN.cbp.toNat / 16 != 2 else !(mbN.cbp &&& 15).getLsbD (bN / 4)

/-- The two configuration registers R264 row 2 reads are in their ranges, 0 to 1 and 0 to 31 (R27). -/
def State.intraRegistersLegal (s : State) : Bool :=
  decide ((s.conf constrainedIntraPredFlag).toNat ≤ 1 ∧ (s.conf nalUnitType).toNat ≤ 31)

/-- "constrained-intra-blocked" (R264 row 2). -/
def State.intraBlocked (s : State) (cur mbN : MbRecord) : Bool :=
  s.params.isIntra cur.type && s.conf constrainedIntraPredFlag == 1 && !s.params.isIntra mbN.type &&
    s.params.cipNalTypes.contains (s.conf nalUnitType).toNat

/-- `nN` of an available neighbour block, "first match wins" (R264 rows 2 to 6). A register of row 2 that is out of range is
caught (R27, U12, C13); that it raises `HostProtocolError`, and does so wherever row 2 is reached, is DESIGN CHOICE, unsafe,
log entry 14. -/
def State.neighbourCount (s : State) (c : Category) (cur mbN : MbRecord) (bN : Nat) : Except FaultClass Nat := do
  raiseIf (!s.intraRegistersLegal) .hostProtocolError
  if s.intraBlocked cur mbN then .ok 0
  else if mbN.type = pSkip ∨ mbN.type = bSkip then .ok 0
  else if mbN.type = iPcm then .ok 16
  else if noResidual c mbN bN then .ok 0
  else match mbN.block ((contextCategory c mbN.type.isI16x16).key bN) with
    | some tb => .ok tb.totalCoeff.toNat
    | none => .error .contextDerivationError

/-- The contribution of the neighbour block at an offset (R263, R264): `none` when it is unavailable (row 1). -/
def State.contribution (s : State) (c : Category) (cur : MbRecord) (xN yN : Int) :
    Except FaultClass (Option Nat) := do
  match ← neighbour s cur c.isChromaAC .none xN yN with
  | none => .ok none
  | some n => do
    let mbN ← orRaise .hostProtocolError (s.record n.index)
    let count ← s.neighbourCount c cur mbN (blockAt (contextKind c) n.xW n.yW)
    .ok (some count)

/-- "`nC=(nA+nB+1)>>1` if both available, else whichever is available, else `0`" (R262). -/
def combine : Option Nat → Option Nat → Nat
  | some nA, some nB => (nA + nB + 1) / 2
  | some nA, none => nA
  | none, some nB => nB
  | none, none => 0

/-- `nC` of block `b` of a category of `cur` (R262): for Chroma DC "-1 if `CHROMA_ARRAY_TYPE = 1` else -2", else from the
neighbour blocks A at `(x - 1, y)` and B at `(x, y - 1)` (R263). -/
def State.context (s : State) (c : Category) (cur : MbRecord) (b : Nat) : Except FaultClass Int :=
  match c with
  | .chromaDC _ => .ok (if s.chromaArrayType = 1 then -1 else -2)
  | .intra16x16DC | .intra16x16AC | .luma4x4 | .cbIntra16x16DC | .cbIntra16x16AC | .cb4x4 | .crIntra16x16DC
  | .crIntra16x16AC | .cr4x4 | .chromaAC _ => do
    let p := blockXY (contextKind c) b
    let nA ← s.contribution c cur ((p.1 : Int) - 1) p.2
    let nB ← s.contribution c cur p.1 ((p.2 : Int) - 1)
    .ok (combine nA nB)

/-- `NC` (R262). -/
def execNc (c : Category) (rd ra : Reg) (s : State) : Answer :=
  s.command do
    let op ← s.residualOperand c ra
    let nC ← s.context c op.1 op.2
    .ok (s.setReg rd (BitVec.ofInt 32 nC))

/-! ## The single symbols -/

/-- `COEFFTOKEN` (R270). -/
def execCoefftoken (ra rb rc : Reg) (s : State) : Answer :=
  s.command do
    let cls ← orRaise .hostProtocolError (tokenClass (s.s ra))
    let bits ← orRaise .contextDerivationError (s.params.coeffToken cls (s.u rb) (s.u rc))
    .ok (s.emit bits)

/-- `LEVELPFX` (R274). -/
def execLevelpfx (ra : Reg) (s : State) : Answer := s.command (.ok (s.emit (levelPrefixBits (s.u ra))))

/-- `TOTALZEROS` (R276). -/
def execTotalzeros (c : CoeffClass) (ra rb : Reg) (s : State) : Answer :=
  s.command do
    let bits ← orRaise .contextDerivationError (s.params.totalZeros c (s.u rb) (s.u ra))
    .ok (s.emit bits)

/-- `RUNBEFORE` (R278). -/
def execRunbefore (ra rb : Reg) (s : State) : Answer :=
  s.command do
    let bits ← orRaise .contextDerivationError (s.params.runBefore (s.u rb) (s.u ra))
    .ok (s.emit bits)

/-! ## The residual block (R280 to R284) -/

/-- "`class(max)` is 0 for 4, 1 for 8, 2 for 15 and 16" (R280). -/
def coeffClassFor (maxNumCoeff : Nat) : CoeffClass :=
  if maxNumCoeff = 4 then .max4 else if maxNumCoeff = 8 then .max8 else .max16

/-- Coefficient `i` (R280): its sign flag if it is a trailing one (R283), else prefix and suffix (R284). -/
def TransformBlock.levelBits (tb : TransformBlock) (i : Nat) : Bits :=
  if i < tb.trailingOnes.toNat then [tb.t1sign[i]?.getD false]
  else
    levelPrefixBits (tb.levelPrefix[i]?.getD 0).toNat ++
      bin (tb.levelSuffix[i]?.getD 0).toNat (tb.levelSuffixSize[i]?.getD 0).toNat

/-- The `run_before` codes of the runs given, with `zl` zeros left (R280): "`run_before[i]` for `i` from the point where
`zl` reaches 0 are not emitted and not checked" (R282). -/
def runBits (p : Params) : List Nat → Nat → Except FaultClass Bits
  | [], _ => .ok []
  | rb :: rest, zl =>
    if zl = 0 then .ok []
    else do
      let code ← orRaise .contextDerivationError (p.runBefore zl rb)
      let more ← runBits p rest (zl - rb)
      .ok (code ++ more)

/-- The zeros and runs of a block with `0 < tc`: nothing when `tc = max`, else `total_zeros` and the runs of all
coefficients but the last (R280, R282), with the check "`B.total_zeros <= max - tc`" (R281). -/
def TransformBlock.zeroBits (tb : TransformBlock) (p : Params) (maxNumCoeff : Nat) : Except FaultClass Bits :=
  let tc := tb.totalCoeff.toNat
  if tc < maxNumCoeff then do
    raiseIf (decide (maxNumCoeff - tc < tb.totalZeros.toNat)) .contextDerivationError
    let code ← orRaise .contextDerivationError
      (p.totalZeros (coeffClassFor maxNumCoeff) tc tb.totalZeros.toNat)
    let runs ← runBits p ((tb.runBefore.toList.take (tc - 1)).map BitVec.toNat) tb.totalZeros.toNat
    .ok (code ++ runs)
  else .ok []

/-- The code of a residual block (R280), with the checks of R281 in order. -/
def TransformBlock.code (tb : TransformBlock) (p : Params) (nC : Int) (maxNumCoeff : Nat) : Except FaultClass Bits := do
  let tc := tb.totalCoeff.toNat
  let t1 := tb.trailingOnes.toNat
  raiseIf (decide (maxNumCoeff < tc)) .contextDerivationError
  raiseIf (decide (3 < t1 ∨ tc < t1)) .contextDerivationError
  let cls ← orRaise .contextDerivationError (tokenClass nC)
  let token ← orRaise .contextDerivationError (p.coeffToken cls tc t1)
  if tc = 0 then .ok token
  else do
    let zeros ← tb.zeroBits p maxNumCoeff
    .ok (token ++ (List.range tc).flatMap tb.levelBits ++ zeros)

/-- `RESBLK` (R280), the tests in the order of R409. -/
def execResblk (c : Category) (ra : Reg) (s : State) : Answer :=
  s.command do
    let op ← s.residualOperand c ra
    let m := op.1
    let key := c.key op.2
    let tb ← orRaise .hostProtocolError (m.block key)
    let nC ← s.context c m op.2
    let bits ← tb.code s.params nC (c.maxNumCoeff s.chromaArrayType)
    .ok { s.emit bits with cur := some (m.setBlock key { tb with nC := some (BitVec.ofInt 32 nC) }) }

end Sys2Proof.Machine
end

