-- ==== Sys2Proof/Machine/SliceGroup.lean ====
section
/-!
DEFINITION. The slice-group map generator: `SGMAP` and `MAPRD` (43_slice_group_map.md). `mu` is a list of `N` group ids,
one per map unit in raster order (R192).
-/

namespace Sys2Proof.Machine

/-- A group number 0 to 7 as a group id. -/
def groupId (g : Nat) : GroupId := BitVec.ofNat 3 g

/-- Map type 0 (R193): the groups take runs of `R[g] + 1` units in turn, cyclically, from group `g` on, until `rest` units
are assigned. Every run has a unit, so `rest` rounds are enough. -/
def interleaved (run : Nat → Nat) (g1 : Nat) : (rounds g rest : Nat) → List GroupId
  | 0, _, _ => []
  | rounds + 1, g, rest =>
    if rest = 0 then []
    else
      let n := min (run g + 1) rest
      List.replicate n (groupId g) ++ interleaved run g1 rounds (if g < g1 then g + 1 else 0) (rest - n)

/-- Map type 1 (R194): "`mu[i] = ((i % W) + (((i / W) * (G1 + 1)) / 2)) % (G1 + 1)`". -/
def dispersed (w g1 n : Nat) : List GroupId :=
  (List.range n).map fun i => groupId (((i % w) + (((i / w) * (g1 + 1)) / 2)) % (g1 + 1))

/-- Unit `i` lies in the rectangle with these corners (R195). -/
def inRectangle (w topLeft bottomRight i : Nat) : Bool :=
  decide (topLeft / w ≤ i / w ∧ i / w ≤ bottomRight / w ∧ topLeft % w ≤ i % w ∧ i % w ≤ bottomRight % w)

/-- Map type 2 (R195): all units in group `G1`, then the rectangles `G1 - 1` down to 0 painted over. -/
def foreground (w g1 n : Nat) (topLeft bottomRight : Nat → Nat) : List GroupId :=
  (List.range g1).foldr
    (fun g mu => mu.mapIdx fun i v => if inRectangle w (topLeft g) (bottomRight g) i then groupId g else v)
    (List.replicate n (groupId g1))

/-- `TOP_LEFT[g] >= N` or `BOTTOM_RIGHT[g] >= N` for some rectangle (R195). -/
def cornerOutside (g1 n : Nat) (topLeft bottomRight : Nat → Nat) : Bool :=
  (List.range g1).any fun g => decide (n ≤ topLeft g ∨ n ≤ bottomRight g)

/-- The variables of the box-out walk (R196). -/
structure BoxOut where
  mu : List GroupId
  x : Int
  y : Int
  leftBound : Int
  topBound : Int
  rightBound : Int
  bottomBound : Int
  xDir : Int
  yDir : Int
  k : Nat
  deriving DecidableEq, Repr

/-- The walk before its first step (R196). -/
def boxOutStart (w h n d : Nat) : BoxOut :=
  let x : Int := ((w - d) / 2 : Nat)
  let y : Int := ((h - d) / 2 : Nat)
  { mu := List.replicate n (groupId 1), x := x, y := y, leftBound := x, topBound := y, rightBound := x,
    bottomBound := y, xDir := (d : Int) - 1, yDir := d, k := 0 }

/-- The unit the walk stands on. -/
def BoxOut.unit (w : Nat) (b : BoxOut) : Nat := (b.y * w + b.x).toNat

/-- "`vacant = (mu[y * W + x] = 1)`" (R196). -/
def BoxOut.vacant (w : Nat) (b : BoxOut) : Bool := b.mu[b.unit w]? == some (groupId 1)

/-- "`if vacant: mu[y * W + x] = 0`" and the count (R196). -/
def BoxOut.claim (w : Nat) (b : BoxOut) : BoxOut :=
  if b.vacant w then { b with mu := b.mu.set (b.unit w) (groupId 0), k := b.k + 1 } else b

/-- The move of one step: a bound-clamped turn at a wall, else one cell on (R196). -/
def BoxOut.move (w h d : Nat) (b : BoxOut) : BoxOut :=
  if b.xDir = -1 ∧ b.x = b.leftBound then
    let l := max (b.leftBound - 1) 0
    { b with leftBound := l, x := l, xDir := 0, yDir := 2 * (d : Int) - 1 }
  else if b.xDir = 1 ∧ b.x = b.rightBound then
    let r := min (b.rightBound + 1) ((w : Int) - 1)
    { b with rightBound := r, x := r, xDir := 0, yDir := 1 - 2 * (d : Int) }
  else if b.yDir = -1 ∧ b.y = b.topBound then
    let t := max (b.topBound - 1) 0
    { b with topBound := t, y := t, xDir := 1 - 2 * (d : Int), yDir := 0 }
  else if b.yDir = 1 ∧ b.y = b.bottomBound then
    let m := min (b.bottomBound + 1) ((h : Int) - 1)
    { b with bottomBound := m, y := m, xDir := 2 * (d : Int) - 1, yDir := 0 }
  else { b with x := b.x + b.xDir, y := b.y + b.yDir }

/-- "`while k < M0`" (R196), for at most `fuel` steps. -/
def boxOutWalk (w h d m0 : Nat) : (fuel : Nat) → BoxOut → BoxOut
  | 0, b => b
  | fuel + 1, b => if b.k < m0 then boxOutWalk w h d m0 fuel ((b.claim w).move w h d) else b

/-- A number of steps in which the walk of a `w` by `h` picture ends by count: at most `w + h` growths of the box, four
legs to each, no leg longer than `w + h`. DEDUCED, log entry 16; `boxOut_count` proves it enough. -/
def boxOutFuel (w h : Nat) : Nat := (4 * (w + h) + 4) * (w + h)

/-- Map type 3 (R196). -/
def boxOut (w h n d m0 : Nat) : List GroupId :=
  (boxOutWalk w h d m0 (boxOutFuel w h) (boxOutStart w h n d)).mu

/-- The split point of map types 4 and 5: "`S = (N - M0)` if `d = 1` else `M0`" (R197). -/
def splitPoint (n d m0 : Nat) : Nat := if d = 1 then n - m0 else m0

/-- Map type 4 (R197): "`mu[i] = d if i < S else 1 - d`". -/
def rasterWipe (n d m0 : Nat) : List GroupId :=
  (List.range n).map fun i => groupId (if i < splitPoint n d m0 then d else 1 - d)

/-- Map type 5 (R198): unit `i * W + j` is the `j * H + i`-th of the column-major order. -/
def columnWipe (w h n d m0 : Nat) : List GroupId :=
  (List.range n).map fun u => groupId (if (u % w) * h + u / w < splitPoint n d m0 then d else 1 - d)

/-- Map type 6 (R199). -/
def explicitIds (n : Nat) (id : Nat → Nat) : List GroupId := (List.range n).map fun i => groupId (id i)

/-- "`M0 = min(SLICE_GROUP_CHANGE_CYCLE * (SLICE_GROUP_CHANGE_RATE_MINUS1 + 1), N)`" on unbounded integers (R200). -/
def mapUnitsInGroup0 (s : State) : Nat :=
  min ((s.conf sliceGroupChangeCycle).toNat * ((s.conf sliceGroupChangeRateMinus1).toNat + 1))
    s.geo.picSizeInMapUnits.toNat

/-- `NUM_SLICE_GROUPS_MINUS1`. -/
def State.groupsMinus1 (s : State) : Nat := (s.conf numSliceGroupsMinus1).toNat

/-- `SLICE_GROUP_MAP_TYPE`. -/
def State.mapType (s : State) : Nat := (s.conf sliceGroupMapType).toNat

/-- The map type is one of 3, 4, 5, with more than one slice group. -/
def State.changingMap (s : State) : Bool :=
  decide (s.groupsMinus1 ≠ 0 ∧ 3 ≤ s.mapType ∧ s.mapType ≤ 5)

/-- `mu`, the map units' groups, with the tests of R190, R195 and R199. -/
def mapUnits (s : State) : Except FaultClass (List GroupId) :=
  let w := s.geo.picWidthInMbs.toNat
  let h := s.geo.picHeightInMapUnits.toNat
  let n := s.geo.picSizeInMapUnits.toNat
  let g1 := s.groupsMinus1
  let d := (s.conf sliceGroupChangeDirectionFlag).toNat
  let m0 := mapUnitsInGroup0 s
  let corner (a : ArrayId) (g : Nat) : Nat := (s.element a g).toNat
  if g1 = 0 then .ok (List.replicate n (groupId 0))
  else if 6 < s.mapType then .error .configurationError
  else if s.changingMap && decide (1 < d) then .error .hostProtocolError
  else match s.mapType with
    | 0 => .ok (interleaved (corner .runLengthMinus1) g1 n 0 n)
    | 1 => .ok (dispersed w g1 n)
    | 2 =>
      if cornerOutside g1 n (corner .topLeft) (corner .bottomRight) then .error .hostProtocolError
      else .ok (foreground w g1 n (corner .topLeft) (corner .bottomRight))
    | 3 => .ok (boxOut w h n d m0)
    | 4 => .ok (rasterWipe n d m0)
    | 5 => .ok (columnWipe w h n d m0)
    | _ =>
      if (List.range n).any fun i => decide (7 < corner .sliceGroupId i) then .error .hostProtocolError
      else .ok (explicitIds n (corner .sliceGroupId))

/-- The expansion is the identity: "`FRAME_MBS_ONLY_FLAG = 1` or `FIELD_PIC_FLAG = 1`" (R190, R201). A flag above 1 is not 1
here and raises nothing of its own: `SGMAP` tests, as R190 lists it, only that the case fits the picture size, though R27
and U12 have an out-of-range value caught. DESIGN CHOICE, unsafe, log entry 23. -/
def State.mapIsIdentity (s : State) : Bool := s.conf frameMbsOnlyFlag == 1 || s.conf fieldPicFlag == 1

/-- The map unit of macroblock `i` (R201). -/
def mapUnitOf (s : State) (i : Nat) : Nat :=
  let w := s.geo.picWidthInMbs.toNat
  if s.mapIsIdentity then i
  else if s.geo.mbaffFrameFlag = 1 then i / 2
  else (i / (2 * w)) * w + i % w

/-- The expansion of the map units to `PIC_SIZE_IN_MBS` macroblocks (R201). -/
def expandMap (s : State) (mu : List GroupId) : List GroupId :=
  (List.range s.geo.picSizeInMbs.toNat).map fun i => mu[mapUnitOf s i]?.getD 0

/-- The state `SGMAP` leaves (R190, R200). -/
def State.withMap (s : State) (m : List GroupId) : State :=
  { s with
    map := some m
    geo := if s.changingMap then { s.geo with mapUnitsInSliceGroup0 := BitVec.ofNat 32 (mapUnitsInGroup0 s) }
      else s.geo }

/-- `SGMAP` (R190), with the tests its pseudocode lists and no other (log entry 23). -/
def execSgmap (s : State) : Answer :=
  s.command do
    raiseIf (s.geo.picSizeInMapUnits == 0) .hostProtocolError
    raiseIf (s.params.overMaxMbs s.geo.picSizeInMbs.toNat) .hostProtocolError
    raiseIf (s.mapIsIdentity != (s.geo.picSizeInMbs == s.geo.picSizeInMapUnits)) .hostProtocolError
    raiseIf (decide (7 < s.groupsMinus1)) .configurationError
    let mu ← mapUnits s
    .ok (s.withMap (expandMap s mu))

/-- `MAPRD` (R205). -/
def execMaprd (rd ra : Reg) (s : State) : Answer :=
  s.command do
    let m ← orRaise .hostProtocolError s.map
    raiseIf (decide (s.geo.picSizeInMbs.toNat ≤ s.u ra)) .hostProtocolError
    let g ← orRaise .hostProtocolError m[s.u ra]?
    .ok (s.setNat rd g.toNat)

end Sys2Proof.Machine
end

