-- ==== Sys2Proof/Machine/System.lean ====
section
/-!
DEFINITION. System, configuration and record operations (48_system_ops.md).
-/

namespace Sys2Proof.Machine

/-- `NOP` (R370): "State changed: `CMDCNT` only". -/
def execNop (s : State) : Answer := s.command (.ok s)

/-- `LDI` (R371). -/
def execLdi (rd : Reg) (imm : Word) (s : State) : Answer := s.command (.ok (s.setReg rd imm))

/-- `MOV` (R372). -/
def execMov (rd ra : Reg) (s : State) : Answer := s.command (.ok (s.setReg rd (s.reg ra)))

/-- `CFGWR` (R373): "all 32 bits, no check". -/
def execCfgwr (r : ConfReg) (ra : Reg) (s : State) : Answer := s.command (.ok (s.setConf r (s.reg ra)))

/-- `CFGRD` (R374): "accepted while `HALT = 1`"; `CMDCNT` is read as "the count before this command". -/
def execCfgrd (r : ReadReg) (rd : Reg) (s : State) : Answer := (s.setReg rd (s.readCsr r)).always

/-- `CFGWRA` (R375). -/
def execCfgwra (a : ArrayId) (ra rb : Reg) (s : State) : Answer :=
  s.command do
    raiseIf (outsideArray s.params a (s.u rb)) .hostProtocolError
    .ok (s.setElement a (s.u rb) (s.reg ra))

/-! ## SLICESTART (R38, R376) -/

/-- `cfi` of R376: `CHROMA_FORMAT_IDC`, or what `CHROMA_OOR_POLICY` makes of a value above 3. -/
def chromaFormat (chromaFormatIdc : Nat) : Except FaultClass Nat :=
  if 3 < chromaFormatIdc then
    match Config.chromaOorPolicy with
    | .fault => .error .configurationError
    | .default420 => .ok 1
  else .ok chromaFormatIdc

/-- `PIC_SIZE_IN_MBS` as its 32-bit register holds it. A product that does not fit is given no value by the spec: a free
one, DESIGN CHOICE, safe, log entry 11. -/
def picSizeWord (n : Nat) : Word := if n < 2 ^ 32 then BitVec.ofNat 32 n else Config.picSizeInMbsTooWide n

/-- `PIC_HEIGHT_IN_MBS` (R38). -/
def picHeightInMbs (s : State) : Nat :=
  ((2 - (s.conf frameMbsOnlyFlag).toNat) * ((s.conf picHeightInMapUnitsMinus1).toNat + 1)) /
    (1 + (s.conf fieldPicFlag).toNat)

/-- `CHROMA_ARRAY_TYPE` (R38). -/
def chromaArrayTypeOf (separate cfi : Nat) : Nat := if separate = 1 then 0 else cfi

/-- The registers 0x40 to 0x48 by the table of R38, and 0x49 zeroed (R376). -/
def latchedGeometry (s : State) (cfi : Nat) : Geometry :=
  let w := (s.conf picWidthInMbsMinus1).toNat + 1
  let h := (s.conf picHeightInMapUnitsMinus1).toNat + 1
  let cat := chromaArrayTypeOf (s.conf separateColourPlaneFlag).toNat cfi
  { picWidthInMbs := BitVec.ofNat 32 w
    picHeightInMapUnits := BitVec.ofNat 32 h
    picSizeInMapUnits := BitVec.ofNat 32 (w * h)
    picHeightInMbs := BitVec.ofNat 32 (picHeightInMbs s)
    picSizeInMbs := picSizeWord (w * picHeightInMbs s)
    chromaArrayType := BitVec.ofNat 32 cat
    mbWidthC := if cat = 0 then 0 else if cat = 3 then 16 else 8
    mbHeightC := if cat = 0 then 0 else if cat = 1 then 8 else 16
    mbaffFrameFlag := if s.conf mbAdaptiveFrameFieldFlag = 1 ∧ s.conf fieldPicFlag = 0 then 1 else 0
    mapUnitsInSliceGroup0 := 0 }

/-- The slice state `SLICESTART` leaves (R376): geometry latched, `MBSTORE`, `CUR` and `MAP` emptied. -/
def State.openSlice (s : State) (g : Geometry) : State :=
  { s with geo := g, mbstore := [], cur := none, map := none }

/-- `SLICESTART` (R376), the tests in the order of its pseudocode. -/
def execSlicestart (s : State) : Answer :=
  s.command do
    let cfi ← chromaFormat (s.conf chromaFormatIdc).toNat
    let scp := (s.conf separateColourPlaneFlag).toNat
    raiseIf (decide (1 < scp ∨ (scp = 1 ∧ cfi ≠ 3))) .configurationError
    raiseIf (decide (1 < (s.conf frameMbsOnlyFlag).toNat)) .hostProtocolError
    raiseIf (decide (1 < (s.conf mbAdaptiveFrameFieldFlag).toNat)) .hostProtocolError
    raiseIf (decide (1 < (s.conf fieldPicFlag).toNat)) .hostProtocolError
    raiseIf (s.conf fieldPicFlag == 1 && s.conf frameMbsOnlyFlag == 1) .hostProtocolError
    raiseIf (decide (65535 < (s.conf picWidthInMbsMinus1).toNat ∨
      65535 < (s.conf picHeightInMapUnitsMinus1).toNat)) .hostProtocolError
    let w := (s.conf picWidthInMbsMinus1).toNat + 1
    let h := (s.conf picHeightInMapUnitsMinus1).toNat + 1
    raiseIf (s.params.overMaxMbs (w * picHeightInMbs s) || decide (2 ^ 32 ≤ w * h)) .hostProtocolError
    .ok (s.openSlice (latchedGeometry s cfi))

/-! ## Records -/

/-- The record `MBNEW` opens (R47, R377). -/
def newRecord (idx : Nat) (addr : Word) (t : MbT) (fieldCoded : Bool) : MbRecord :=
  { idx := BitVec.ofNat 32 idx
    addr := addr
    type := t
    fieldCoded := fieldCoded
    cbp := if t.isI16x16 then t.impliedCbp else 0
    sub := Vector.replicate 4 none
    t8x8 := false
    tbs := [] }

/-- The type a code names, allowed in the slice class; else `HostProtocolError` (R377). -/
def State.typeOperand (s : State) (r : Reg) : Except FaultClass MbT := do
  let sc ← orRaise .hostProtocolError s.sliceClass
  if h : s.u r < 57 then
    let t : MbT := ⟨s.u r, h⟩
    raiseIf (!sc.allows t) .hostProtocolError
    .ok t
  else .error .hostProtocolError

/-- The address does not rise past the last committed record (R44, R377). -/
def State.addrNotRising (s : State) (addr : Nat) : Bool :=
  match s.mbstore.getLast? with
  | some m => decide (addr ≤ m.addr.toNat)
  | none => false

/-- "both macroblocks of a pair agree" (R377): the record before, at the pair's top address, has the other flag. -/
def State.pairDisagrees (s : State) (addr : Nat) (fieldCoded : Bool) : Bool :=
  match s.mbstore.getLast? with
  | some m => decide (addr % 2 = 1 ∧ m.addr.toNat = addr - 1) && m.fieldCoded != fieldCoded
  | none => false

/-- `MBNEW` (R377), the tests in the order of its pseudocode. -/
def execMbnew (fieldCoded : Bool) (ra rb : Reg) (s : State) : Answer :=
  s.command do
    raiseIf (s.geo.picWidthInMbs == 0) .hostProtocolError
    raiseIf s.cur.isSome .hostProtocolError
    raiseIf (decide (s.geo.picSizeInMbs.toNat ≤ s.u ra)) .hostProtocolError
    raiseIf (s.addrNotRising (s.u ra)) .hostProtocolError
    let t ← s.typeOperand rb
    raiseIf (fieldCoded && s.geo.mbaffFrameFlag == 0) .hostProtocolError
    raiseIf (s.geo.mbaffFrameFlag == 1 && s.pairDisagrees (s.u ra) fieldCoded) .hostProtocolError
    .ok { s with cur := some (newRecord s.mbCount (s.reg ra) t fieldCoded) }

/-- The record with one field written (R378); a value out of range raises `HostProtocolError`. -/
def MbRecord.withField (m : MbRecord) (f : MbField) (v : Nat) : Except FaultClass MbRecord :=
  match f with
  | .cbp => do
    raiseIf (decide (47 < v)) .hostProtocolError
    raiseIf m.type.isI16x16 .hostProtocolError
    .ok { m with cbp := BitVec.ofNat 6 v }
  | .subMbType p =>
    if h : v < 17 then .ok { m with sub := m.sub.set p (some ⟨v, h⟩) } else .error .hostProtocolError
  | .transform8x8 => do
    raiseIf (decide (1 < v)) .hostProtocolError
    .ok { m with t8x8 := decide (v = 1) }

/-- `MBSET` (R378). -/
def execMbset (f : MbField) (ra : Reg) (s : State) : Answer :=
  s.command do
    let m ← s.curOperand
    let m' ← m.withField f (s.u ra)
    .ok { s with cur := some m' }

/-- The TransformBlock `TBSET TOTAL_COEFF` leaves: `valid = 1`, `ncvalid = 0`, "every other symbol field `<- 0`" (R379). -/
def freshBlock (totalCoeff : Nat) : TransformBlock :=
  { totalCoeff := BitVec.ofNat 5 totalCoeff
    trailingOnes := 0
    nC := none
    t1sign := Vector.replicate 3 false
    levelPrefix := Vector.replicate 16 0
    levelSuffix := Vector.replicate 16 0
    levelSuffixSize := Vector.replicate 16 0
    totalZeros := 0
    runBefore := Vector.replicate 15 0 }

/-- "if `e`, `v` or `z` is out of the range of the table" (R379). -/
def symbolOutOfRange (sym : TbSymbol) (v : Word) : Bool :=
  match sym with
  | .totalCoeff => decide (16 < v.toNat)
  | .trailingOnes => decide (3 < v.toNat)
  | .t1Sign e => decide (2 < e.toNat ∨ 1 < v.toNat)
  | .levelPrefix e => decide (15 < e.toNat)
  | .levelSuffix e z => decide (15 < e.toNat ∨ 32 < z.toNat)
  | .totalZeros => decide (15 < v.toNat)
  | .runBefore e => decide (14 < e.toNat ∨ 14 < v.toNat)

/-- The effect of a symbol on a valid TransformBlock (R379). -/
def TransformBlock.withSymbol (b : TransformBlock) (sym : TbSymbol) (v : Word) : TransformBlock :=
  match sym with
  | .totalCoeff => freshBlock v.toNat
  | .trailingOnes => { b with trailingOnes := v.setWidth 2 }
  | .t1Sign e => { b with t1sign := b.t1sign.setIfInBounds e.toNat (v.getLsbD 0) }
  | .levelPrefix e => { b with levelPrefix := b.levelPrefix.setIfInBounds e.toNat v }
  | .levelSuffix e z =>
    { b with
      levelSuffix := b.levelSuffix.setIfInBounds e.toNat v
      levelSuffixSize := b.levelSuffixSize.setIfInBounds e.toNat z }
  | .totalZeros => { b with totalZeros := v.setWidth 5 }
  | .runBefore e => { b with runBefore := b.runBefore.setIfInBounds e.toNat (v.setWidth 5) }

/-- The block a symbol is written to: `TOTAL_COEFF` needs none; "if `s != 0` and `B.valid = 0`: raise HPE" (R379). -/
def MbRecord.symbolTarget (m : MbRecord) (key : Nat) (sym : TbSymbol) (v : Word) :
    Except FaultClass TransformBlock :=
  if sym = .totalCoeff then .ok (freshBlock v.toNat) else orRaise .hostProtocolError (m.block key)

/-- `TBSET` (R379), the tests in the order of its pseudocode. -/
def execTbset (c : Category) (sym : TbSymbol) (ra rb : Reg) (s : State) : Answer :=
  s.command do
    let m ← s.curOperand
    let b ← s.blockOperand c rb
    let old ← m.symbolTarget (c.key b) sym (s.reg ra)
    raiseIf (symbolOutOfRange sym (s.reg ra)) .hostProtocolError
    .ok { s with cur := some (m.setBlock (c.key b) (old.withSymbol sym (s.reg ra))) }

/-- `MBCOMMIT` (R380). -/
def execMbcommit (s : State) : Answer :=
  s.command do
    let m ← s.curOperand
    raiseIf (s.params.atMaxMbs s.mbCount) .hostProtocolError
    .ok { s with mbstore := s.mbstore ++ [m], cur := none }

/-- `STATRD` (R381): "Accepted while `HALT = 1`". -/
def execStatrd (rd : Reg) (s : State) : Answer := (s.setReg rd s.status).always

/-- `SRESET` (R382): "the `SRESET` itself is not counted", "Accepted while `HALT = 1`". -/
def execSreset (s : State) : Answer := .next s.softReset

end Sys2Proof.Machine
end

