-- ==== Sys2Proof/Machine/Dispatch.lean ====
section
/-!
DEFINITION. One arm for each operation of the opcode map (R84).
-/

namespace Sys2Proof.Machine

def exec (i : Instr) (s : State) : Host.Outcome State Fault Refusal :=
  match i with
  | .nop => Sys2Proof.Machine.execNop s
  | .ldi rd imm => Sys2Proof.Machine.execLdi rd imm s
  | .mov rd ra => Sys2Proof.Machine.execMov rd ra s
  | .cfgwr r ra => Sys2Proof.Machine.execCfgwr r ra s
  | .cfgrd r rd => Sys2Proof.Machine.execCfgrd r rd s
  | .cfgwra a ra rb => Sys2Proof.Machine.execCfgwra a ra rb s
  | .slicestart => Sys2Proof.Machine.execSlicestart s
  | .mbnew fieldCoded ra rb => Sys2Proof.Machine.execMbnew fieldCoded ra rb s
  | .mbset f ra => Sys2Proof.Machine.execMbset f ra s
  | .tbset c sym ra rb => Sys2Proof.Machine.execTbset c sym ra rb s
  | .mbcommit => Sys2Proof.Machine.execMbcommit s
  | .statrd rd => Sys2Proof.Machine.execStatrd rd s
  | .sreset => Sys2Proof.Machine.execSreset s
  | .expg signed reversed k ra => Sys2Proof.Machine.execExpg signed reversed k ra s
  | .tu ra rb => Sys2Proof.Machine.execTu ra rb s
  | .fl ra rb => Sys2Proof.Machine.execFl ra rb s
  | .mbtype rd ra => Sys2Proof.Machine.execMbtype rd ra s
  | .submbtype ra => Sys2Proof.Machine.execSubmbtype ra s
  | .cbp ra => Sys2Proof.Machine.execCbp ra s
  | .mbqpd ra => Sys2Proof.Machine.execMbqpd ra s
  | .calm1 ra => Sys2Proof.Machine.execCalm1 ra s
  | .uegk signed k rd ra rb => Sys2Proof.Machine.execUegk signed k rd ra rb s
  | .isintra rd ra => Sys2Proof.Machine.execIsintra rd ra s
  | .isinter rd ra => Sys2Proof.Machine.execIsinter rd ra s
  | .numpart rd ra => Sys2Proof.Machine.execNumpart rd ra s
  | .partpred rd ra rb => Sys2Proof.Machine.execPartpred rd ra rb s
  | .partdim rd ra => Sys2Proof.Machine.execPartdim rd ra s
  | .numsubpart rd ra rb => Sys2Proof.Machine.execNumsubpart rd ra rb s
  | .subpartpred rd ra rb => Sys2Proof.Machine.execSubpartpred rd ra rb s
  | .subpartdim rd ra rb => Sys2Proof.Machine.execSubpartdim rd ra rb s
  | .sgmap => Sys2Proof.Machine.execSgmap s
  | .maprd rd ra => Sys2Proof.Machine.execMaprd rd ra s
  | .neigh chroma o rd ra rb rc => Sys2Proof.Machine.execNeigh chroma o rd ra rb rc s
  | .blk2xy kind rd ra => Sys2Proof.Machine.execBlk2xy kind rd ra s
  | .xy2blk kind rd ra rb => Sys2Proof.Machine.execXy2blk kind rd ra rb s
  | .xy2part rd ra rb rc => Sys2Proof.Machine.execXy2part rd ra rb rc s
  | .nc c rd ra => Sys2Proof.Machine.execNc c rd ra s
  | .coefftoken ra rb rc => Sys2Proof.Machine.execCoefftoken ra rb rc s
  | .levelpfx ra => Sys2Proof.Machine.execLevelpfx ra s
  | .totalzeros c ra rb => Sys2Proof.Machine.execTotalzeros c ra rb s
  | .runbefore ra rb => Sys2Proof.Machine.execRunbefore ra rb s
  | .resblk c ra => Sys2Proof.Machine.execResblk c ra s

end Sys2Proof.Machine
end

