-- ==== Sys2Proof/Machine/Step.lean ====
section
/-!
DEFINITION. One step: the next command word of the host is taken, decoded and executed to completion (R20, R24).
-/

namespace Sys2Proof.Machine

/-- One step. With no command word issued the block waits (R432); a word that decodes runs (R81); any other raises
`IllegalCommand` (R403). -/
def step (s : State) : Answer :=
  match s.takeCommand with
  | none => .next s
  | some (w, t) =>
    match decode w with
    | .ok i => exec i t
    | .error _ => t.illegalWord

/-- `s` with the command word `w` standing first on the command port, in place of the one that stood there. It stands
for the host issuing that word (log entry 2). -/
def State.withFetchWord (s : State) (nbits w : Nat) : State :=
  { s with port := BitVec.ofNat 64 (w % 2 ^ nbits) :: s.port.tail }

end Sys2Proof.Machine
end

