-- ==== Sys2Proof/Safety.lean ====
section
/-!
DEFINITION. The terms in which claims are made: what a retiring command may change, what raising a fault changes, the
registers an instruction names, and the invariants of the state.
-/

namespace Sys2Proof

/-- The registers an instruction reads (R22, R81): those its `ra`, `rb`, `rc` fields name. -/
def Instr.sources : Instr → List Reg
  | .nop | .ldi _ _ | .cfgrd _ _ | .slicestart | .mbcommit | .statrd _ | .sreset | .sgmap => []
  | .mov _ ra | .cfgwr _ ra | .mbset _ ra | .expg _ _ _ ra | .mbtype _ ra | .submbtype ra | .cbp ra | .mbqpd ra
  | .calm1 ra | .isintra _ ra | .isinter _ ra | .numpart _ ra | .partdim _ ra | .maprd _ ra | .blk2xy _ _ ra
  | .nc _ _ ra | .levelpfx ra | .resblk _ ra => [ra]
  | .cfgwra _ ra rb | .mbnew _ ra rb | .tbset _ _ ra rb | .tu ra rb | .fl ra rb | .uegk _ _ _ ra rb
  | .partpred _ ra rb | .numsubpart _ ra rb | .subpartpred _ ra rb | .subpartdim _ ra rb | .xy2blk _ _ ra rb
  | .totalzeros _ ra rb | .runbefore ra rb => [ra, rb]
  | .neigh _ _ _ ra rb rc | .xy2part _ ra rb rc | .coefftoken ra rb rc => [ra, rb, rc]

/-- The registers an instruction writes (R22, R83). -/
def Instr.dests : Instr → List Reg
  | .nop | .cfgwr _ _ | .cfgwra _ _ _ | .slicestart | .mbnew _ _ _ | .mbset _ _ | .tbset _ _ _ _ | .mbcommit | .sreset
  | .expg _ _ _ _ | .tu _ _ | .fl _ _ | .submbtype _ | .cbp _ | .mbqpd _ | .calm1 _ | .sgmap | .coefftoken _ _ _
  | .levelpfx _ | .totalzeros _ _ _ | .runbefore _ _ | .resblk _ _ => []
  | .ldi rd _ | .mov rd _ | .cfgrd _ rd | .statrd rd | .mbtype rd _ | .uegk _ _ rd _ _ | .isintra rd _ | .isinter rd _
  | .numpart rd _ | .partpred rd _ _ | .partdim rd _ | .numsubpart rd _ _ | .subpartpred rd _ _ | .subpartdim rd _ _
  | .maprd rd _ | .xy2blk _ rd _ _ | .nc _ rd _ => [rd]
  | .blk2xy _ rd _ | .xy2part rd _ _ _ => [rd, Machine.regAfter rd]
  | .neigh _ _ rd _ _ _ => [rd, Machine.regAfter rd, Machine.regAfter (Machine.regAfter rd)]

/-- The operations that append bits to `OUT`: "every coding operation" (R60). -/
def Instr.codes : Instr → Bool
  | .expg _ _ _ _ | .tu _ _ | .fl _ _ | .mbtype _ _ | .submbtype _ | .cbp _ | .mbqpd _ | .calm1 _ | .uegk _ _ _ _ _
  | .coefftoken _ _ _ | .levelpfx _ | .totalzeros _ _ _ | .runbefore _ _ | .resblk _ _ => true
  | .nop | .ldi _ _ | .mov _ _ | .cfgwr _ _ | .cfgrd _ _ | .cfgwra _ _ _ | .slicestart | .mbnew _ _ _ | .mbset _ _
  | .tbset _ _ _ _ | .mbcommit | .statrd _ | .sreset | .isintra _ _ | .isinter _ _ | .numpart _ _ | .partpred _ _ _
  | .partdim _ _ | .numsubpart _ _ _ | .subpartpred _ _ _ | .subpartdim _ _ _ | .sgmap | .maprd _ _
  | .neigh _ _ _ _ _ _ | .blk2xy _ _ _ | .xy2blk _ _ _ _ | .xy2part _ _ _ _ | .nc _ _ _ => false

namespace Machine

/-! ## What a command changes -/

/-- The general registers after a command that writes those of `dests` and no other (R22, R23). -/
def RegistersKept (dests : List Reg) (s t : State) : Prop :=
  (∀ r, r ∉ dests → t.reg r = s.reg r) ∧ ∀ r, t.isWritten r = (s.isWritten r || decide (r ∈ dests))

/-- `t` is `s` after a retired command that changed general registers of `dests` and nothing else but `CMDCNT` (R65). -/
def WritesOnly (dests : List Reg) (s t : State) : Prop :=
  RegistersKept dests s t ∧ t = { s with x := t.x, written := t.written, cmdCnt := s.cmdCnt + 1 }

/-- `t` is `s` after a retired command that appended `bits` to `OUT` (R64), changed general registers of `dests`, and
nothing else but `CMDCNT`. `OUTLEN` is `s`'s plus the length while that fits 64 bits. -/
def Appends (bits : Bits) (dests : List Reg) (s t : State) : Prop :=
  RegistersKept dests s t ∧
  (s.outLen.toNat + bits.length < 2 ^ 64 → t.outLen.toNat = s.outLen.toNat + bits.length) ∧
  t = { s with x := t.x, written := t.written, out := s.out ++ bits, outLen := t.outLen, cmdCnt := s.cmdCnt + 1 }

/-- `t` is `s` after a retired command that changed `CUR` and nothing else but `CMDCNT`. -/
def WritesCur (s t : State) : Prop := t = { s with cur := t.cur, cmdCnt := s.cmdCnt + 1 }

/-- `t` is `s` after the fatal class `f` was raised while `HALT = 0` (R404): of the whole state only `STATUS` and
`FAULTCMD` differ; in `STATUS` the sticky bit of `f` and `HALT` are 1, `FAULTCODE` is the code of `f`, every other bit is
as it was; `FAULTCMD` is `CMDCNT`. -/
def Raises (f : FaultClass) (s t : State) : Prop :=
  t = { s with status := t.status, faultCmd := s.cmdCnt } ∧
  haltBit t.status = true ∧ t.status.getLsbD f.stickyBit = true ∧ faultCode t.status = f.code ∧
  ∀ j, 0 < j → j ≠ f.stickyBit → (j < 8 ∨ 16 ≤ j) → t.status.getLsbD j = s.status.getLsbD j

/-! ## What operands name -/

/-- "`i < MBCOUNT` names a committed record, `i = MBCOUNT` with `CURVALID = 1` names `CUR`" (R160). -/
def NamesRecord (s : State) (i : Nat) (m : MbRecord) : Prop :=
  s.mbstore[i]? = some m ∨ (i = s.mbstore.length ∧ s.cur = some m)

/-- A category is legal for `CHROMA_ARRAY_TYPE`, and `b` is one of its block indices (R260). -/
def NamesBlock (s : State) (c : Category) (b : Nat) : Prop :=
  let cat := s.geo.chromaArrayType.toNat
  (c.code ≤ 2 ∧ b ≤ (if c.code = 0 then 0 else 15)) ∨
  (3 ≤ c.code ∧ c.code ≤ 8 ∧ cat = 3 ∧ b ≤ (if c.code = 3 ∨ c.code = 6 then 0 else 15)) ∨
  (c.code = 9 ∧ (cat = 1 ∨ cat = 2) ∧ b = 0) ∨
  (c.code = 10 ∧ (cat = 1 ∧ b ≤ 3 ∨ cat = 2 ∧ b ≤ 7))

/-- The position of a TransformBlock in the record's list: 16 places for each category, in them the index of R260. -/
def blockKey (c : Category) (b : Nat) : Nat :=
  16 * c.code + (if c.code = 9 then c.iCbCr else if c.code = 10 then c.iCbCr * 8 + b else b)

/-- "`CUR.type` fits the category" (R261). -/
def TypeFits (c : Category) (t : MbT) : Prop :=
  t.val ≠ 25 ∧ t.val ≠ 32 ∧ t.val ≠ 56 ∧
  (c.code = 0 ∨ c.code = 1 ∨ c.code = 3 ∨ c.code = 4 ∨ c.code = 6 ∨ c.code = 7 → 1 ≤ t.val ∧ t.val ≤ 24) ∧
  (c.code = 2 ∨ c.code = 5 ∨ c.code = 8 → t.val = 0 ∨ 25 ≤ t.val)

/-- `n` is within the capacity `MAX_MBS` (R8): always, while that is unbounded. -/
abbrev WithinMaxMbs (s : State) (n : Nat) : Prop := ∀ c ∈ s.params.maxMbs, n ≤ c

/-! ## The slice-group map (R190 to R201) -/

/-- `MAP` after `SGMAP`, where `f` gives each map unit its group: `PIC_SIZE_IN_MBS` entries (R192), that of macroblock `i`
by the three cases of R201, "`MAP[i] = mu[i]`", "`MAP[i] = mu[i / 2]`", "`MAP[i] = mu[(i / (2 * W)) * W + (i % W)]`". A flag
above 1 is read as not 1 (log entry 23). -/
def MapIs (s t : State) (f : Nat → Nat) : Prop :=
  let w := s.geo.picWidthInMbs.toNat
  let size := s.geo.picSizeInMbs.toNat
  let frameOnly := s.conf frameMbsOnlyFlag = 1
  let field := s.conf fieldPicFlag = 1
  let mbaff := s.geo.mbaffFrameFlag = 1
  ∃ m, t.map = some m ∧ m.length = size ∧ ∀ i, i < size →
    (frameOnly ∨ field → m[i]? = some (BitVec.ofNat 3 (f i))) ∧
    (¬frameOnly → ¬field → mbaff → m[i]? = some (BitVec.ofNat 3 (f (i / 2)))) ∧
    (¬frameOnly → ¬field → ¬mbaff → m[i]? = some (BitVec.ofNat 3 (f ((i / (2 * w)) * w + i % w))))

/-- Position, bounds and direction of the box-out walk of R196. Where it goes next does not depend on what it claims. -/
structure Spiral where
  x : Int
  y : Int
  left : Int
  top : Int
  right : Int
  bottom : Int
  xDir : Int
  yDir : Int
  deriving DecidableEq, Repr

/-- One step on (R196): at a bound, that bound moves out by one, within the picture, and the walk turns there; else one
unit further. -/
def Spiral.next (w h d : Int) (p : Spiral) : Spiral :=
  if p.xDir = -1 ∧ p.x = p.left then
    { p with left := max (p.left - 1) 0, x := max (p.left - 1) 0, xDir := 0, yDir := 2 * d - 1 }
  else if p.xDir = 1 ∧ p.x = p.right then
    { p with right := min (p.right + 1) (w - 1), x := min (p.right + 1) (w - 1), xDir := 0, yDir := 1 - 2 * d }
  else if p.yDir = -1 ∧ p.y = p.top then
    { p with top := max (p.top - 1) 0, y := max (p.top - 1) 0, xDir := 1 - 2 * d, yDir := 0 }
  else if p.yDir = 1 ∧ p.y = p.bottom then
    { p with bottom := min (p.bottom + 1) (h - 1), y := min (p.bottom + 1) (h - 1), xDir := 2 * d - 1, yDir := 0 }
  else { p with x := p.x + p.xDir, y := p.y + p.yDir }

/-- The walk of a picture `w` wide and `h` high after `j` steps: it starts at `((w - d) / 2, (h - d) / 2)`, in the
direction `(d - 1, d)` (R196). -/
def spiral (w h d : Nat) : Nat → Spiral
  | 0 =>
    let x : Int := ((w - d) / 2 : Nat)
    let y : Int := ((h - d) / 2 : Nat)
    { x := x, y := y, left := x, top := y, right := x, bottom := y, xDir := (d : Int) - 1, yDir := d }
  | j + 1 => (spiral w h d j).next w h d

/-- The map units at the first `j` positions of the walk, "`y * W + x`" (R196). -/
def visited (w h d j : Nat) : List Nat :=
  (List.range j).map fun k => ((spiral w h d k).y * w + (spiral w h d k).x).toNat

/-- What `SGMAP` asks of the configuration (R190, R195, R199, R203). `FRAME_MBS_ONLY_FLAG` and `FIELD_PIC_FLAG` are read as 1
or not 1, and a value above 1 is not caught where the case fits the picture size (log entry 23). -/
def MapReady (s : State) : Prop :=
  let n := s.geo.picSizeInMapUnits.toNat
  let g1 := (s.conf numSliceGroupsMinus1).toNat
  let ty := (s.conf sliceGroupMapType).toNat
  n ≠ 0 ∧ WithinMaxMbs s s.geo.picSizeInMbs.toNat ∧
  ((s.conf frameMbsOnlyFlag = 1 ∨ s.conf fieldPicFlag = 1) ↔ s.geo.picSizeInMbs = s.geo.picSizeInMapUnits) ∧
  g1 ≤ 7 ∧
  (g1 ≠ 0 →
    ty ≤ 6 ∧
    (3 ≤ ty → ty ≤ 5 → (s.conf sliceGroupChangeDirectionFlag).toNat ≤ 1) ∧
    (ty = 2 → ∀ g, g < g1 → (s.element .topLeft g).toNat < n ∧ (s.element .bottomRight g).toNat < n) ∧
    (ty = 6 → ∀ i, i < n → (s.element .sliceGroupId i).toNat ≤ 7))

/-- The value, element index and suffix size of a symbol are in the range of the table of R379. -/
def SymbolInRange (sym : TbSymbol) (v : Nat) : Prop :=
  match sym with
  | .totalCoeff => v ≤ 16
  | .trailingOnes => v ≤ 3
  | .t1Sign e => e.toNat ≤ 2 ∧ v ≤ 1
  | .levelPrefix e => e.toNat ≤ 15
  | .levelSuffix e z => e.toNat ≤ 15 ∧ z.toNat ≤ 32
  | .totalZeros => v ≤ 15
  | .runBefore e => e.toNat ≤ 14 ∧ v ≤ 14

/-- "0 P, 1 B, 2 I, 3 SP, 4 SI" (R124). -/
def SliceClass.number : SliceClass → Nat
  | .p => 0
  | .b => 1
  | .i => 2
  | .sp => 3
  | .si => 4

/-! ## Classes by type code: what the default tables hold, in closed form (R334 to R337) -/

/-- The number of partitions of type `T` (R334 to R336). -/
def numPartOf (T : Nat) : Nat :=
  if T = 28 ∨ T = 29 ∨ (37 ≤ T ∧ T ≤ 54) then 2
  else if T = 30 ∨ T = 31 ∨ T = 33 ∨ T = 55 ∨ T = 56 then 4
  else 1

/-- Partition width of type `T` (R334 to R336): 8 where there are four, and in the 8x16 types. -/
def partWidthOf (T : Nat) : Nat :=
  if numPartOf T = 4 ∨ T = 29 ∨ (37 ≤ T ∧ T ≤ 54 ∧ T % 2 = 0) then 8 else 16

/-- Partition height of type `T` (R334 to R336): 8 where there are four, and in the 16x8 types. -/
def partHeightOf (T : Nat) : Nat :=
  if numPartOf T = 4 ∨ T = 28 ∨ (37 ≤ T ∧ T ≤ 54 ∧ T % 2 = 1) then 8 else 16

/-- The code of the mode of partition `p` of type `T` (R165, R333): by the table of R334 to R336, the B types 37 to 54 in
pairs of a 16x8 and an 8x16 type with the same two modes. -/
def partPredOf (T : Nat) (t8x8 : Bool) (p : Nat) : Nat :=
  if 37 ≤ T ∧ T ≤ 54 ∧ p ≤ 1 then
    (if p = 0 then [3, 4, 3, 4, 3, 4, 5, 5, 5] else [3, 4, 4, 3, 5, 5, 3, 4, 5])[(T - 37) / 2]?.getD 7
  else if (T = 28 ∨ T = 29) ∧ p ≤ 1 then 3
  else if p ≠ 0 then 7
  else if T = 0 then (if t8x8 then 1 else 0)
  else if T ≤ 24 then 2
  else if T = 26 then 0
  else if T = 27 ∨ T = 32 ∨ T = 34 then 3
  else if T = 35 then 4
  else if T = 36 then 5
  else if T = 33 ∨ T = 56 then 6
  else 7

/-- The number of sub-partitions of sub-type `t` (R337). -/
def numSubPartOf (t : Nat) : Nat := [1, 2, 2, 4, 4, 1, 1, 1, 2, 2, 2, 2, 2, 2, 4, 4, 4][t]?.getD 0

/-- The code of the mode of sub-type `t` (R337, R333). -/
def subPredOf (t : Nat) : Nat := [3, 3, 3, 3, 6, 3, 4, 5, 3, 3, 4, 4, 5, 5, 3, 4, 5][t]?.getD 7

/-- Sub-partition width of sub-type `t` (R337). -/
def subWidthOf (t : Nat) : Nat := [8, 8, 4, 4, 4, 8, 8, 8, 8, 4, 8, 4, 8, 4, 4, 4, 4][t]?.getD 0

/-- Sub-partition height of sub-type `t` (R337). -/
def subHeightOf (t : Nat) : Nat := [8, 4, 8, 4, 4, 8, 8, 8, 4, 8, 4, 8, 4, 8, 4, 4, 4][t]?.getD 0

/-- Sub-macroblock `p` of `m` has a sub-type, and one that fits the type (R167). -/
def SubTypeIs (m : MbRecord) (p : Nat) (t : Nat) : Prop :=
  (∃ st : SubT, m.sub[p]? = some (some st) ∧ st.val = t) ∧
  ((m.type.val = 55 ∧ 4 ≤ t) ∨ ((m.type.val = 30 ∨ m.type.val = 31) ∧ t ≤ 3))

/-- The code of an I-slice mb_type value in closed form (R341). -/
def iTypeCode (v : Nat) : Bits :=
  if v = 0 then [false]
  else if v = 25 then [true, true]
  else
    [true, false, decide (12 ≤ v - 1)] ++
    (if ((v - 1) / 4) % 3 = 0 then [false] else if ((v - 1) / 4) % 3 = 1 then [true, false] else [true, true]) ++
    bin ((v - 1) % 4) 2

/-! ## Neighbours and contributions (R222 to R224, R262 to R264) -/

/-- The address of the candidate that holds `(xN, yN)` for a macroblock at address `a` of a picture `W` wide, where there is
one, outside that macroblock (R223, R224). -/
def candidateOf (W a maxW maxH xN yN : Int) : Option Int :=
  if maxH ≤ yN then none
  else if 0 ≤ yN then (if xN < 0 ∧ a % W ≠ 0 then some (a - 1) else none)
  else if xN < 0 then (if a % W = 0 then none else some (a - W - 1))
  else if xN < maxW then some (a - W)
  else if (a + 1) % W = 0 then none
  else some (a - W + 1)

/-- Address `c` is available to the macroblock at address `a`, and stands at slice-local index `i` (R222, R226). -/
def AvailableAt (s : State) (a : Nat) (c : Int) (i : Nat) : Prop :=
  0 ≤ c ∧ c.toNat < s.geo.picSizeInMbs.toNat ∧ (∃ n, s.records[i]? = some n ∧ n.addr.toNat = c.toNat) ∧ c.toNat ≤ a ∧
  ∀ g, s.map = some g → g[c.toNat]? = g[a]?

/-- The three results of a `NEIGH` that finds nothing (R220). -/
def NotAvailable (rd : Reg) (t : State) : Prop :=
  t.reg rd = 0xFFFFFFFF ∧ t.reg (regAfter rd) = 0 ∧ t.reg (regAfter (regAfter rd)) = 0

/-- The two configuration registers R264 row 2 reads are in their ranges (R27). -/
def IntraRegistersLegal (s : State) : Prop :=
  (s.conf constrainedIntraPredFlag).toNat ≤ 1 ∧ (s.conf nalUnitType).toNat ≤ 31

/-- "constrained-intra-blocked" (R264 row 2): the classes are those of `MB_CLASS_TABLE` (log entry 10, DEDUCED). -/
def IntraBlocked (s : State) (cur mbN : MbRecord) : Prop :=
  s.params.mbClassTable[cur.type].intra = true ∧ s.conf constrainedIntraPredFlag = 1 ∧
  s.params.mbClassTable[mbN.type].intra = false ∧ (s.conf nalUnitType).toNat ∈ s.params.cipNalTypes

/-- The coded block pattern of a macroblock says block `b` has residual of the category's kind (R264 row 5). -/
def HasResidual (c : Category) (m : MbRecord) (b : Nat) : Prop :=
  (c.code = 10 → m.cbp.toNat / 16 = 2) ∧ (c.code ≠ 10 → m.cbp.toNat / 2 ^ (b / 4) % 2 = 1)

/-- The neighbour block is one whose `total_coeff` counts (R264: none of rows 2 to 5). -/
def CountsTotalCoeff (s : State) (c : Category) (cur mbN : MbRecord) (bN : Nat) : Prop :=
  ¬IntraBlocked s cur mbN ∧ mbN.type.val ≠ 32 ∧ mbN.type.val ≠ 56 ∧ mbN.type.val ≠ 25 ∧ HasResidual c mbN bN

/-- The key of the block whose `total_coeff` counts (R264 row 6). -/
def countingKey (c : Category) (neighbourI16x16 : Bool) (bN : Nat) : Nat :=
  if c.code = 10 then 160 + c.iCbCr * 8 + bN
  else 16 * (3 * (c.code / 3) + if neighbourI16x16 then 1 else 2) + bN

/-- `nN` of an available neighbour block is `k` (R264 rows 2 to 6). -/
def CountIs (s : State) (c : Category) (cur mbN : MbRecord) (bN k : Nat) : Prop :=
  (IntraBlocked s cur mbN ∨ mbN.type.val = 32 ∨ mbN.type.val = 56 → k = 0) ∧
  (¬IntraBlocked s cur mbN → mbN.type.val = 25 → k = 16) ∧
  (mbN.type.val ≠ 25 → ¬HasResidual c mbN bN → k = 0) ∧
  (CountsTotalCoeff s c cur mbN bN → ∃ tb,
    mbN.block (countingKey c (decide (1 ≤ mbN.type.val ∧ mbN.type.val ≤ 24)) bN) = some tb ∧ k = tb.totalCoeff.toNat)

/-- The neighbour block of a category at an offset from `cur`: the record found and the block in it (R263). -/
def NeighbourBlock (s : State) (c : Category) (cur : MbRecord) (xN yN : Int) (mbN : MbRecord) (bN : Nat) : Prop :=
  ∃ n, neighbour s cur c.isChromaAC .none xN yN = .ok (some n) ∧ s.records[n.index]? = some mbN ∧
    bN = blockAt (contextKind c) n.xW n.yW

/-- The contribution of the neighbour block at an offset, `none` where it is unavailable (R263, R264); of an available one
only where the registers of row 2 are in range (log entry 14). -/
def Contributes (s : State) (c : Category) (cur : MbRecord) (xN yN : Int) : Option Nat → Prop
  | none => neighbour s cur c.isChromaAC .none xN yN = .ok none
  | some k => IntraRegistersLegal s ∧ ∃ mbN bN, NeighbourBlock s c cur xN yN mbN bN ∧ CountIs s c cur mbN bN k

/-- The neighbour block at an offset is available, and a register of R264 row 2 is out of range (R27, U12; log entry 14). -/
def RegisterCaught (s : State) (c : Category) (cur : MbRecord) (xN yN : Int) : Prop :=
  ¬IntraRegistersLegal s ∧ ∃ mbN bN, NeighbourBlock s c cur xN yN mbN bN

/-- The neighbour block at an offset counts by its `total_coeff`, which no `TBSET` has given (R264 row 6, R265). -/
def CountMissing (s : State) (c : Category) (cur : MbRecord) (xN yN : Int) : Prop :=
  IntraRegistersLegal s ∧ ∃ mbN bN, NeighbourBlock s c cur xN yN mbN bN ∧ CountsTotalCoeff s c cur mbN bN ∧
    mbN.block (countingKey c (decide (1 ≤ mbN.type.val ∧ mbN.type.val ≤ 24)) bN) = none

/-- "`nC=(nA+nB+1)>>1` if both available, else whichever is available, else `0`" (R262). -/
def Combined : Option Nat → Option Nat → Int → Prop
  | some nA, some nB, nC => nC = ((nA + nB + 1) / 2 : Nat)
  | some nA, none, nC => nC = nA
  | none, some nB, nC => nC = nB
  | none, none, nC => nC = 0

/-- The context of block `b` of a category of `cur` is `nC` (R262, R263). -/
def ContextIs (s : State) (c : Category) (cur : MbRecord) (b : Nat) (nC : Int) : Prop :=
  (c.code = 9 → nC = if s.geo.chromaArrayType = 1 then -1 else -2) ∧
  (c.code ≠ 9 → ∃ nA nB,
    Contributes s c cur ((blockXY (contextKind c) b).1 - 1) (blockXY (contextKind c) b).2 nA ∧
    Contributes s c cur (blockXY (contextKind c) b).1 ((blockXY (contextKind c) b).2 - 1) nB ∧ Combined nA nB nC)

/-- `CUR` is `m`, and the preconditions of R261 hold for the block. -/
def MayEncode (s : State) (c : Category) (b : Nat) (m : MbRecord) : Prop :=
  s.cur = some m ∧ NamesBlock s c b ∧ TypeFits c m.type

/-! ## Residual blocks (R280 to R284) -/

/-- `maxNumCoeff` (R260). -/
def maxCoeffOf (s : State) (c : Category) : Nat :=
  if c.code = 9 then (if s.geo.chromaArrayType = 1 then 4 else 8)
  else if c.code = 1 ∨ c.code = 4 ∨ c.code = 7 ∨ c.code = 10 then 15
  else 16

/-- The `coeff_token` family of a context (R271). -/
def FamilyIs (nC : Int) (cls : TokenClass) : Prop :=
  (nC = -2 ∧ cls = .cdc422) ∨ (nC = -1 ∧ cls = .cdc420) ∨ (0 ≤ nC ∧ nC < 2 ∧ cls = .n0) ∨
  (2 ≤ nC ∧ nC < 4 ∧ cls = .n2) ∨ (4 ≤ nC ∧ nC < 8 ∧ cls = .n4) ∨ (8 ≤ nC ∧ cls = .n8)

/-- Every run the loop of R280 reads is at most the zeros left there (R281). -/
def RunsFit : List Nat → Nat → Prop
  | [], _ => True
  | r :: rest, zl => zl = 0 ∨ (r ≤ zl ∧ RunsFit rest (zl - r))

/-- The runs' code: one word for each run until no zeros are left (R280, R282). -/
def RunsCoded (p : Params) : List Nat → Nat → Bits → Prop
  | [], _, bits => bits = []
  | r :: rest, zl, bits =>
    (zl = 0 → bits = []) ∧
    (0 < zl → ∃ word more, p.runBefore zl r = some word ∧ RunsCoded p rest (zl - r) more ∧ bits = word ++ more)

/-- The runs a block codes: those of all coefficients but the last (R280). -/
def TransformBlock.runs (b : TransformBlock) : List Nat :=
  (b.runBefore.toList.take (b.totalCoeff.toNat - 1)).map BitVec.toNat

/-- The checks of R281. -/
def TransformBlock.Consistent (b : TransformBlock) (max : Nat) : Prop :=
  b.totalCoeff.toNat ≤ max ∧ b.trailingOnes.toNat ≤ b.totalCoeff.toNat ∧
  (0 < b.totalCoeff.toNat → b.totalCoeff.toNat < max →
    b.totalZeros.toNat ≤ max - b.totalCoeff.toNat ∧ RunsFit b.runs b.totalZeros.toNat)

/-- The bits of coefficient `i` (R283, R284). -/
def TransformBlock.coefficientBits (b : TransformBlock) (i : Nat) : Bits :=
  if i < b.trailingOnes.toNat then [b.t1sign[i]?.getD false]
  else
    List.replicate (b.levelPrefix[i]?.getD 0).toNat false ++ [true] ++
      bin (b.levelSuffix[i]?.getD 0).toNat (b.levelSuffixSize[i]?.getD 0).toNat

/-- `bits` is the code of a block in context `nC` (R280, R282): the token; then, if it has coefficients, they, and if they
are fewer than `max`, `total_zeros` and the runs. -/
def TransformBlock.CodedAs (b : TransformBlock) (p : Params) (nC : Int) (max : Nat) (bits : Bits) : Prop :=
  ∃ cls token tail, FamilyIs nC cls ∧ p.coeffToken cls b.totalCoeff.toNat b.trailingOnes.toNat = some token ∧
    bits = token ++ (List.range b.totalCoeff.toNat).flatMap b.coefficientBits ++ tail ∧
    (b.totalCoeff.toNat = 0 ∨ b.totalCoeff.toNat = max → tail = []) ∧
    (0 < b.totalCoeff.toNat → b.totalCoeff.toNat < max → ∃ zeros runs,
      p.totalZeros (if max = 4 then .max4 else if max = 8 then .max8 else .max16) b.totalCoeff.toNat
        b.totalZeros.toNat = some zeros ∧
      RunsCoded p b.runs b.totalZeros.toNat runs ∧ tail = zeros ++ runs)

/-! ## Invariants -/

/-- "at most one of `CFG`, `CTX`, `OVF`, `ILL`, `HPE` is ever 1, and it agrees with `FAULTCODE`" (R406), `RW` and the
reserved bits read 0 (R402, R51): no fault, or one of the five fatal classes with `HALT`. -/
def StatusLegal (s : State) : Prop :=
  s.status = 0 ∨ s.status = 0x103 ∨ s.status = 0x205 ∨ s.status = 0x411 ∨ s.status = 0x521 ∨ s.status = 0x641

/-- `OUTLEN` is the length of `OUT` while that fits 64 bits (R50). -/
def OutLenAgrees (s : State) : Prop := s.out.length < 2 ^ 64 → s.outLen.toNat = s.out.length

/-- `SLICE_GROUP_ID` is in canonical form, `MAP`, while `MAPVALID = 1`, has `PIC_SIZE_IN_MBS` entries (R40), and neither
they nor `MBSTORE` outgrow `MAX_MBS` (R8). -/
def StoresFormed (s : State) : Prop :=
  Memory.wf s.sliceGroupId = true ∧ (∀ e, e ∈ s.sliceGroupId → WithinMaxMbs s (e.1 + 1)) ∧
  (∀ m, s.map = some m → m.length = s.geo.picSizeInMbs.toNat ∧ WithinMaxMbs s m.length) ∧
  WithinMaxMbs s s.mbstore.length

/-- The derived registers fit together (R38, R200). `PIC_SIZE_IN_MBS` is bounded always, and is the product of width and
height where that fits it (log entry 11). -/
def GeometryFits (s : State) : Prop :=
  let w := s.geo.picWidthInMbs.toNat
  let h := s.geo.picHeightInMapUnits.toNat
  let heightInMbs := s.geo.picHeightInMbs.toNat
  s.geo.picSizeInMapUnits.toNat = w * h ∧ (heightInMbs = h ∨ heightInMbs = 2 * h) ∧
  (w * heightInMbs < 2 ^ 32 → s.geo.picSizeInMbs.toNat = w * heightInMbs) ∧
  s.geo.picSizeInMbs.toNat ≤ 2 * s.geo.picSizeInMapUnits.toNat ∧ WithinMaxMbs s s.geo.picSizeInMbs.toNat ∧
  s.geo.mapUnitsInSliceGroup0.toNat ≤ s.geo.picSizeInMapUnits.toNat ∧
  s.geo.chromaArrayType.toNat ≤ 3 ∧
  s.geo.mbWidthC.toNat = (if s.geo.chromaArrayType = 0 then 0 else if s.geo.chromaArrayType = 3 then 16 else 8) ∧
  s.geo.mbHeightC.toNat = (if s.geo.chromaArrayType = 0 then 0 else if s.geo.chromaArrayType = 1 then 8 else 16) ∧
  s.geo.mbaffFrameFlag.toNat ≤ 1

/-- The records, `CUR` last, stand at their slice-local index (R41, R42), their addresses rise strictly (R44) and lie in
the picture. -/
def RecordsOrdered (s : State) : Prop :=
  (∀ (i : Nat) (m : MbRecord), s.records[i]? = some m → m.idx = BitVec.ofNat 32 i ∧ m.addr.toNat < s.geo.picSizeInMbs.toNat) ∧
  ∀ (i j : Nat) (m n : MbRecord), i < j → s.records[i]? = some m → s.records[j]? = some n → m.addr.toNat < n.addr.toNat

/-- The ranges of the fields of a TransformBlock (R46) that its widths do not already give. -/
def TransformBlock.InRange (b : TransformBlock) : Prop :=
  b.totalCoeff.toNat ≤ 16 ∧ b.totalZeros.toNat ≤ 15 ∧
  (∀ (i : Nat) (n : BitVec 5), b.runBefore[i]? = some n → n.toNat ≤ 14) ∧
  (∀ (i : Nat) (n : BitVec 6), b.levelSuffixSize[i]? = some n → n.toNat ≤ 32) ∧
  ∀ n : Word, b.nC = some n → -2 ≤ n.toInt ∧ n.toInt ≤ 16

/-- The ranges of a record's fields (R43, R46, R377): the chroma pattern is 0 to 2, an `I_16x16` type fixes the pattern,
the TransformBlocks are listed once each. -/
def MbRecord.InRange (m : MbRecord) : Prop :=
  m.cbp.toNat ≤ 47 ∧ (m.type.isI16x16 = true → m.cbp = m.type.impliedCbp) ∧ keysRise m.tbs = true ∧
  ∀ k b, m.block k = some b → b.InRange

/-- Every record, committed or `CUR`, has its fields in range, and is field-coded only in an MBAFF frame (R43, R377). -/
def RecordsInRange (s : State) : Prop :=
  ∀ m, m ∈ s.records → m.InRange ∧ (m.fieldCoded = true → s.geo.mbaffFrameFlag ≠ 0)

/-! ## Codes -/

/-- No word of the list is a prefix of another, and no two are equal (R106, R307, R313, R316, R346). -/
def prefixFree (words : List Bits) : Bool :=
  words.zipIdx.all fun a => words.zipIdx.all fun b => a.2 == b.2 || !(a.1.isPrefixOf b.1)

/-- The Kraft sum of a list of code words none longer than 16 bits, in units of 2^-16. -/
def kraft (words : List Bits) : Nat := (words.map fun w => 2 ^ (16 - w.length)).sum

/-- The number whose bits, most significant first, are `bits`. -/
def valueOf (bits : Bits) : Nat := bits.foldl (fun n b => 2 * n + b.toNat) 0

/-- "count `M` bits equal to `p` up to the first bit equal to `1 - p`" (R106): `M`, and what follows that bit. -/
def countPrefix (p : Bool) : Bits → Option (Nat × Bits)
  | [] => none
  | b :: rest => if b = p then (countPrefix p rest).map fun r => (r.1 + 1, r.2) else some (0, rest)

/-- The decoder of R106: "read `M` more bits as `r`; `q = 2^M - 1 + r`; read `k` bits as `t`; `u = q * 2^k + t`"; and what
follows the code word. -/
def decodeEg (k : Nat) (p : Bool) (bits : Bits) : Option (Nat × Bits) :=
  (countPrefix p bits).bind fun (m, rest) =>
    if rest.length < m + k then none
    else
      let q := 2 ^ m - 1 + valueOf (rest.take m)
      some (q * 2 ^ k + valueOf ((rest.drop m).take k), rest.drop (m + k))

/-- The inverse of the zig-zag map (R101): "`unzig(u) = (u + 1) / 2` for odd `u` and `-(u / 2)` for even `u`". -/
def unzig (u : Nat) : Int := if u % 2 = 1 then ((u + 1) / 2 : Nat) else -((u / 2 : Nat) : Int)

end Machine

end Sys2Proof
end

