-- ==== Sys2Proof/Certificates/Slice0/Obligations.lean ====
section
/-!
DEFINITION. The statements for the provers, one `Prop` each. Those about one instruction say, for a state that is not
halted, that `exec` answers a next state and everything that holds of it.
-/

section

open Sys2Proof Sys2Proof.Machine

/-! ## Encoding -/

/-- Decoding the word of a well-formed instruction gives the instruction back: no bit of an encoding is dropped (R80 to
R84, R378, R379). -/
def Obligations.DecodeOfEncode : Prop :=
  ∀ i : Instr, i.wellFormed = true → decode (encode i) = .ok i

/-- A word that decodes is the word of what it decodes to: every must-be-zero field and reserved bit is zero (R81), and
no two words mean the same. -/
def Obligations.EncodeOfDecode : Prop :=
  ∀ (w : CommandWord) (i : Instr), decode w = .ok i → i.wellFormed = true ∧ encode i = w

/-- The two words of R89. -/
def Obligations.WordsOfR89 : Prop :=
  encode (.expg true false 2 3) = 0x1003000900000000 ∧ decode 0x1003000900000000 = .ok (.expg true false 2 3) ∧
  encode (.ldi 5 0xFFFFFFFF) = 0x01500000FFFFFFFF ∧ decode 0x01500000FFFFFFFF = .ok (.ldi 5 0xFFFFFFFF)

/-! ## The machine -/

/-- A step takes the first command word of the port and runs what it decodes to; with no word issued the block waits
(R24, R432). `withFetchWord` stands for the host issuing a word (log entry 2). -/
def Obligations.StepRunsDecoded : Prop :=
  (∀ (s : State) (w : CommandWord) (rest : List CommandWord) (i : Instr),
    s.port = w :: rest → decode w = .ok i → step s = exec i { s with port := rest }) ∧
  (∀ s : State, s.port = [] → step s = .next s) ∧
  ∀ (s : State) (i : Instr), i.wellFormed = true →
    step (s.withFetchWord 64 (encode i).toNat) = exec i { s with port := s.port.tail }

/-- A word that does not decode raises `IllegalCommand` (R81, R403); so does every word whose operation code is not in the
table of R84 (R85). The port is the model's: that the word is taken from it and that the words after it stay is log entry
2. -/
def Obligations.IllegalWordRaises : Prop :=
  ∀ (s : State) (w : CommandWord) (rest : List CommandWord), s.halted = false → s.port = w :: rest →
    let op := w.toNat / 2 ^ 56
    (∃ e, decode w = .error e) ∨ (0x0D ≤ op ∧ op ≤ 0x0F) ∨ (0x19 ≤ op ∧ op ≤ 0x1F) ∨ (0x28 ≤ op ∧ op ≤ 0x2F) ∨
      (0x32 ≤ op ∧ op ≤ 0x3F) ∨ (0x44 ≤ op ∧ op ≤ 0x4F) ∨ 0x56 ≤ op →
    ∃ t, step s = .next t ∧ Raises .illegalCommand { s with port := rest } t

/-- Every step answers a next state: "no command sequence has undefined behaviour" (R403). That no fault of the spec stops
the model is the model's reading (log entry 13, DEDUCED); where U1, U3 and U8 have a model refuse, it runs on by log
entries 1, 4 and 5. -/
def Obligations.StepAlwaysAnswers : Prop := ∀ s : State, ∃ t, step s = .next t

/-- While `HALT = 1`, `STATRD`, `CFGRD` and `SRESET` run as ever, every other word, legal or not, is ignored, and only
`SRESET` leaves the halted state (R405). The port is the model's: that an ignored word leaves it and that `SRESET` keeps
the words after it is log entry 2. Nothing is said of `x` after `SRESET` (log entry 1); the parameters stay (R431). -/
def Obligations.HaltedState : Prop :=
  ∀ (s : State) (w : CommandWord) (rest : List CommandWord), s.halted = true → s.port = w :: rest →
    (∀ rd, decode w = .ok (.statrd rd) →
      ∃ t, step s = .next t ∧ t.reg rd = s.status ∧ WritesOnly [rd] { s with port := rest } t) ∧
    (∀ r rd, decode w = .ok (.cfgrd r rd) →
      ∃ t, step s = .next t ∧ t.reg rd = s.readCsr r ∧ WritesOnly [rd] { s with port := rest } t) ∧
    (decode w = .ok .sreset → ∃ t, step s = .next t ∧ t.halted = false ∧
      t = { State.reset with x := t.x, port := rest, params := s.params }) ∧
    ((∀ i, decode w = .ok i → (∀ rd, i ≠ .statrd rd) ∧ (∀ r rd, i ≠ .cfgrd r rd) ∧ i ≠ .sreset) →
      step s = .next { s with port := rest }) ∧
    ∀ t, step s = .next t → t.halted = false → decode w = .ok .sreset

/-- Faults are precise (R404): a command that is run while `HALT = 0` either retires, with the status registers as they
were and `CMDCNT` one more, or raises one fatal class and changes nothing but `STATUS` and `FAULTCMD`; or is `SRESET`.
`RangeWarning` is never raised (R402). -/
def Obligations.FaultsArePrecise : Prop :=
  ∀ (i : Instr) (s t : State), s.halted = false → exec i s = .next t →
    i = .sreset ∨
    (t.status = s.status ∧ t.faultCmd = s.faultCmd ∧ t.cmdCnt = s.cmdCnt + 1) ∨
    ∃ f, f ≠ FaultClass.rangeWarning ∧ Raises f s t

/-- `STATUS` holds no fault, or one class with its code and `HALT` (R406, R402): kept by every step. -/
def Obligations.StatusLegalKept : Prop :=
  ∀ s t : State, StatusLegal s → step s = .next t → StatusLegal t

/-- `OUTLEN` is the length of `OUT` while that fits 64 bits (R50): kept by every step. -/
def Obligations.OutLenAgreesKept : Prop :=
  ∀ s t : State, OutLenAgrees s → step s = .next t → OutLenAgrees t

/-- `SLICE_GROUP_ID` stays canonical and `MAP` total over the picture (R40, R202), neither they nor `MBSTORE` outgrow
`MAX_MBS` (R8), and the derived registers fit together (R38, R200; `PIC_SIZE_IN_MBS` past 32 bits is log entry 11): both
kept by every step. -/
def Obligations.StoresAndGeometryKept : Prop :=
  ∀ s t : State, step s = .next t →
    (StoresFormed s → StoresFormed t) ∧ (GeometryFits s → GeometryFits t)

/-- Records stand at their index, their addresses rise strictly and lie in the picture (R41, R42, R44): kept by every
step. -/
def Obligations.RecordsOrderedKept : Prop :=
  ∀ s t : State, RecordsOrdered s → step s = .next t → RecordsOrdered t

/-- The fields of records and TransformBlocks stay in the ranges of R43 and R46, the stored `nC` included (R262): kept
by every step. -/
def Obligations.RecordsInRangeKept : Prop :=
  ∀ s t : State, RecordsInRange s → step s = .next t → RecordsInRange t

/-- Every invariant holds of the reset state. -/
def Obligations.InvariantsAtReset : Prop :=
  StatusLegal State.reset ∧ OutLenAgrees State.reset ∧ StoresFormed State.reset ∧ GeometryFits State.reset ∧
  RecordsOrdered State.reset ∧ RecordsInRange State.reset

/-- The reset values of R56, at power-on and after `SRESET`. Of `x[0..15]` only that none is written: their values are the
model's (log entry 1). The port, which the model adds, is kept (log entry 2), and so are the parameters (R431). -/
def Obligations.ResetValues : Prop :=
  (∀ s : State, ∃ t, exec .sreset s = .next t ∧
    t = { State.reset with x := t.x, port := s.port, params := s.params }) ∧
  (∀ r, State.reset.isWritten r = false) ∧ (∀ r, State.reset.conf r = 0) ∧
  (∀ (a : ArrayId) (i : Nat), State.reset.element a i = 0) ∧ (∀ r, State.reset.geo.derived r = 0) ∧
  State.reset.map = none ∧ State.reset.mbstore = [] ∧ State.reset.mbCount = 0 ∧ State.reset.cur = none ∧
  State.reset.out = [] ∧ State.reset.outLen = 0 ∧ State.reset.status = 0 ∧ State.reset.faultCmd = 0 ∧
  State.reset.cmdCnt = 0

/-- Committed records and emitted bits never change (R66): `MBCOMMIT` appends a copy of `CUR`, `SLICESTART` and `SRESET`
empty the store, nothing else writes it; `OUT` only grows until `SRESET`. -/
def Obligations.WrittenOnce : Prop :=
  ∀ (i : Instr) (s t : State), exec i s = .next t →
    (t.mbstore = s.mbstore ∨
      (i = .mbcommit ∧ ∃ m, s.cur = some m ∧ t.mbstore = s.mbstore ++ [m]) ∨
      ((i = .slicestart ∨ i = .sreset) ∧ t.mbstore = [])) ∧
    ((∃ bits, t.out = s.out ++ bits) ∨ i = .sreset)

/-- Which operations write which store (R60, R26), and which general registers (R22, R83); none writes a parameter (R431),
nor the port (log entry 2). -/
def Obligations.WritersOfEachStore : Prop :=
  ∀ (i : Instr) (s t : State), exec i s = .next t → i ≠ .sreset →
    (t.cfg ≠ s.cfg → ∃ r ra, i = .cfgwr r ra) ∧
    ((∃ a n, t.element a n ≠ s.element a n) → ∃ a ra rb, i = .cfgwra a ra rb) ∧
    (t.geo ≠ s.geo → i = .slicestart ∨ i = .sgmap) ∧
    (t.map ≠ s.map → i = .slicestart ∨ i = .sgmap) ∧
    (t.mbstore ≠ s.mbstore → i = .slicestart ∨ i = .mbcommit) ∧
    (t.cur ≠ s.cur → i = .slicestart ∨ i = .mbcommit ∨ (∃ f ra rb, i = .mbnew f ra rb) ∨ (∃ f ra, i = .mbset f ra) ∨
      (∃ c y ra rb, i = .tbset c y ra rb) ∨ ∃ c ra, i = .resblk c ra) ∧
    (t.out ≠ s.out → i.codes = true) ∧
    (∀ r, t.reg r ≠ s.reg r ∨ t.isWritten r ≠ s.isWritten r → r ∈ i.dests) ∧
    t.port = s.port ∧ t.params = s.params

/-- A command depends on no general register but those its `ra`, `rb`, `rc` fields name (R22, R23): changing another one
changes nothing else in the outcome. -/
def Obligations.ReadsOnlySources : Prop :=
  ∀ (i : Instr) (s t : State) (r : Reg) (v : Word), r ∉ i.sources → exec i s = .next t →
    ∃ t', exec i { s with x := s.x.set r v } = .next t' ∧ t' = { t with x := t'.x } ∧ ∀ q, q ≠ r → t'.reg q = t.reg q

/-! ## Moves, configuration and status -/

/-- `NOP` changes `CMDCNT` only (R370); `LDI` loads `imm` (R371); `MOV` copies a register (R372), also onto itself. -/
def Obligations.NopLdiMov : Prop :=
  ∀ s : State, s.halted = false →
    (∃ t, exec .nop s = .next t ∧ WritesOnly [] s t) ∧
    (∀ rd imm, ∃ t, exec (.ldi rd imm) s = .next t ∧ t.reg rd = imm ∧ WritesOnly [rd] s t) ∧
    ∀ rd ra, ∃ t, exec (.mov rd ra) s = .next t ∧ t.reg rd = s.reg ra ∧ WritesOnly [rd] s t

/-- `CFGWR` stores all 32 bits, with no check (R26, R373), in the register it names and changes nothing else. -/
def Obligations.CfgwrStores : Prop :=
  ∀ (r : ConfReg) (ra : Reg) (s : State), s.halted = false →
    ∃ t, exec (.cfgwr r ra) s = .next t ∧ t.conf r = s.reg ra ∧ (∀ q, q ≠ r → t.conf q = s.conf q) ∧
      t = { s with cfg := t.cfg, cmdCnt := s.cmdCnt + 1 }

/-- `CFGRD` and `STATRD` read the register their number names (R374, R381), halted or not (R405); `CMDCNT` reads as the
count before the command, `OUTLEN` in two halves (R50), `MBCOUNT` modulo 2^32 (R54). -/
def Obligations.CfgrdReads : Prop :=
  ∀ (rd : Reg) (s : State),
    (∃ t, exec (.statrd rd) s = .next t ∧ t.reg rd = s.status ∧ WritesOnly [rd] s t) ∧
    ∀ r : ReadReg, ∃ t, exec (.cfgrd r rd) s = .next t ∧ WritesOnly [rd] s t ∧
      (∀ c, r = .conf c → t.reg rd = s.conf c) ∧
      (r = .derived 0 → t.reg rd = s.geo.picWidthInMbs) ∧
      (r = .derived 1 → t.reg rd = s.geo.picHeightInMapUnits) ∧
      (r = .derived 2 → t.reg rd = s.geo.picSizeInMapUnits) ∧
      (r = .derived 3 → t.reg rd = s.geo.picHeightInMbs) ∧
      (r = .derived 4 → t.reg rd = s.geo.picSizeInMbs) ∧
      (r = .derived 5 → t.reg rd = s.geo.chromaArrayType) ∧
      (r = .derived 6 → t.reg rd = s.geo.mbWidthC) ∧
      (r = .derived 7 → t.reg rd = s.geo.mbHeightC) ∧
      (r = .derived 8 → t.reg rd = s.geo.mbaffFrameFlag) ∧
      (r = .derived 9 → t.reg rd = s.geo.mapUnitsInSliceGroup0) ∧
      (r = .status → t.reg rd = s.status) ∧
      (r = .faultCmd → t.reg rd = s.faultCmd) ∧
      (r = .outLenLow → (t.reg rd).toNat = s.outLen.toNat % 2 ^ 32) ∧
      (r = .outLenHigh → (t.reg rd).toNat = s.outLen.toNat / 2 ^ 32) ∧
      (r = .mbCount → (t.reg rd).toNat = s.mbstore.length % 2 ^ 32) ∧
      (r = .cmdCnt → t.reg rd = s.cmdCnt)

/-- `CFGWRA` stores its value in the element it names and leaves every other element of every array as it was (R375,
R61); an index of 8 or more of the arrays 0 to 2, or of `MAX_MBS` or more of array 3, raises `HostProtocolError`.
`Memory.wf` is an invariant (`StoresAndGeometryKept`). -/
def Obligations.CfgwraStores : Prop :=
  ∀ (a : ArrayId) (ra rb : Reg) (s : State), s.halted = false → Memory.wf s.sliceGroupId = true →
    let inside := (a ≠ .sliceGroupId → s.u rb < 8) ∧ (a = .sliceGroupId → WithinMaxMbs s (s.u rb + 1))
    (inside →
      ∃ t, exec (.cfgwra a ra rb) s = .next t ∧ t.element a (s.u rb) = s.reg ra ∧
        (∀ (c : ArrayId) (i : Nat), (c ≠ a ∨ i ≠ s.u rb) → t.element c i = s.element c i) ∧
        t = { s with
          runLength := t.runLength, topLeft := t.topLeft, bottomRight := t.bottomRight,
          sliceGroupId := t.sliceGroupId, cmdCnt := s.cmdCnt + 1 }) ∧
    (¬inside → ∃ t, exec (.cfgwra a ra rb) s = .next t ∧ Raises .hostProtocolError s t)

/-! ## Slices and records -/

/-- `SLICESTART` latches the derived registers by the table of R38 and empties `MBSTORE`, `CUR` and `MAP` (R376), for
every configuration its tests admit with `CHROMA_FORMAT_IDC` in range. `PIC_SIZE_IN_MBS` is said where it fits 32 bits
(log entry 11). -/
def Obligations.SlicestartLatches : Prop :=
  ∀ s : State, s.halted = false →
    let cfi := (s.conf chromaFormatIdc).toNat
    let scp := (s.conf separateColourPlaneFlag).toNat
    let w := (s.conf picWidthInMbsMinus1).toNat + 1
    let h := (s.conf picHeightInMapUnitsMinus1).toNat + 1
    let frameMbsOnly := (s.conf frameMbsOnlyFlag).toNat
    let mbaffFlag := (s.conf mbAdaptiveFrameFieldFlag).toNat
    let fieldPic := (s.conf fieldPicFlag).toNat
    let cat := if scp = 1 then 0 else cfi
    cfi ≤ 3 → scp ≤ 1 → (scp = 1 → cfi = 3) → frameMbsOnly ≤ 1 → mbaffFlag ≤ 1 → fieldPic ≤ 1 →
    ¬(fieldPic = 1 ∧ frameMbsOnly = 1) → w ≤ 65536 → h ≤ 65536 → w * h < 2 ^ 32 →
    WithinMaxMbs s (w * ((2 - frameMbsOnly) * h / (1 + fieldPic))) →
    ∃ t, exec .slicestart s = .next t ∧
      t = { s with geo := t.geo, mbstore := [], cur := none, map := none, cmdCnt := s.cmdCnt + 1 } ∧
      t.geo.picWidthInMbs.toNat = w ∧ t.geo.picHeightInMapUnits.toNat = h ∧
      t.geo.picSizeInMapUnits.toNat = w * h ∧
      t.geo.picHeightInMbs.toNat = (2 - frameMbsOnly) * h / (1 + fieldPic) ∧
      (w * ((2 - frameMbsOnly) * h / (1 + fieldPic)) < 2 ^ 32 →
        t.geo.picSizeInMbs.toNat = w * ((2 - frameMbsOnly) * h / (1 + fieldPic))) ∧
      t.geo.chromaArrayType.toNat = cat ∧
      t.geo.mbWidthC.toNat = (if cat = 0 then 0 else if cat = 3 then 16 else 8) ∧
      t.geo.mbHeightC.toNat = (if cat = 0 then 0 else if cat = 1 then 8 else 16) ∧
      t.geo.mbaffFrameFlag.toNat = (if mbaffFlag = 1 ∧ fieldPic = 0 then 1 else 0) ∧
      t.geo.mapUnitsInSliceGroup0 = 0

/-- The faults of `SLICESTART` in the order of R376, and its `CHROMA_FORMAT_IDC` above 3: by `CHROMA_OOR_POLICY` a
`ConfigurationError`, or what it does with 1 in that register. -/
def Obligations.SlicestartFaults : Prop :=
  ∀ s : State, s.halted = false →
    let cfi := (s.conf chromaFormatIdc).toNat
    let scp := (s.conf separateColourPlaneFlag).toNat
    let w := (s.conf picWidthInMbsMinus1).toNat + 1
    let h := (s.conf picHeightInMapUnitsMinus1).toNat + 1
    (cfi ≤ 3 → (1 < scp ∨ (scp = 1 ∧ cfi ≠ 3)) →
      ∃ t, exec .slicestart s = .next t ∧ Raises .configurationError s t) ∧
    (cfi ≤ 3 → scp ≤ 1 → (scp = 1 → cfi = 3) →
      (1 < (s.conf frameMbsOnlyFlag).toNat ∨ 1 < (s.conf mbAdaptiveFrameFieldFlag).toNat ∨
        1 < (s.conf fieldPicFlag).toNat ∨ (s.conf fieldPicFlag = 1 ∧ s.conf frameMbsOnlyFlag = 1) ∨
        65536 < w ∨ 65536 < h ∨ 2 ^ 32 ≤ w * h ∨
        ¬WithinMaxMbs s (w * ((2 - (s.conf frameMbsOnlyFlag).toNat) * h / (1 + (s.conf fieldPicFlag).toNat)))) →
      ∃ t, exec .slicestart s = .next t ∧ Raises .hostProtocolError s t) ∧
    (3 < cfi →
      (Config.chromaOorPolicy = .fault → ∃ t, exec .slicestart s = .next t ∧ Raises .configurationError s t) ∧
      (Config.chromaOorPolicy = .default420 →
        ∃ t t', exec .slicestart s = .next t ∧ exec .slicestart (s.setConf chromaFormatIdc 1) = .next t' ∧
          t = { t' with cfg := s.cfg }))

/-- `MBNEW` opens a record with the initial values of R47 and R377 exactly when the conditions of R377 hold, else it
raises `HostProtocolError`. -/
def Obligations.MbnewOpens : Prop :=
  ∀ (f : Bool) (ra rb : Reg) (s : State), s.halted = false →
    let addr := s.u ra
    let ty := s.u rb
    let st := (s.conf sliceType).toNat
    let allowed :=
      s.geo.picWidthInMbs ≠ 0 ∧ s.cur = none ∧ addr < s.geo.picSizeInMbs.toNat ∧
      (∀ m, s.mbstore.getLast? = some m → m.addr.toNat < addr) ∧ st ≤ 9 ∧
      (ty ≤ 25 ∨ (ty = 26 ∧ st % 5 = 4) ∨ (27 ≤ ty ∧ ty ≤ 32 ∧ (st % 5 = 0 ∨ st % 5 = 3)) ∨
        (33 ≤ ty ∧ ty ≤ 56 ∧ st % 5 = 1)) ∧
      (f = true → s.geo.mbaffFrameFlag ≠ 0) ∧
      (s.geo.mbaffFrameFlag = 1 → addr % 2 = 1 →
        ∀ m, s.mbstore.getLast? = some m → m.addr.toNat + 1 = addr → m.fieldCoded = f)
    (allowed →
      ∃ t c, exec (.mbnew f ra rb) s = .next t ∧ WritesCur s t ∧ t.cur = some c ∧
        c.idx = BitVec.ofNat 32 s.mbstore.length ∧ c.addr = s.reg ra ∧ c.type.val = ty ∧ c.fieldCoded = f ∧
        c.cbp.toNat = (if 1 ≤ ty ∧ ty ≤ 24 then (if (ty - 1) / 12 = 1 then 15 else 0) + 16 * (((ty - 1) / 4) % 3)
          else 0) ∧
        (∀ p : Fin 4, c.sub[p] = none) ∧ c.t8x8 = false ∧ ∀ k, c.block k = none) ∧
    (¬allowed → ∃ t, exec (.mbnew f ra rb) s = .next t ∧ Raises .hostProtocolError s t)

/-- `MBSET` writes the one field it names when `CUR` exists and the value is legal (R378), else it raises
`HostProtocolError`. -/
def Obligations.MbsetWrites : Prop :=
  ∀ (f : MbField) (ra : Reg) (s : State), s.halted = false →
    let v := s.u ra
    (s.cur = none → ∃ t, exec (.mbset f ra) s = .next t ∧ Raises .hostProtocolError s t) ∧
    ∀ m, s.cur = some m →
      (f = .cbp → v ≤ 47 → (m.type.val = 0 ∨ 25 ≤ m.type.val) →
        ∃ t, exec (.mbset f ra) s = .next t ∧ WritesCur s t ∧ t.cur = some { m with cbp := BitVec.ofNat 6 v }) ∧
      (∀ p, f = .subMbType p → ∀ h : v < 17,
        ∃ t, exec (.mbset f ra) s = .next t ∧ WritesCur s t ∧
          t.cur = some { m with sub := m.sub.set p (some ⟨v, h⟩) }) ∧
      (f = .transform8x8 → v ≤ 1 →
        ∃ t, exec (.mbset f ra) s = .next t ∧ WritesCur s t ∧ t.cur = some { m with t8x8 := decide (v = 1) }) ∧
      ((f = .cbp ∧ (48 ≤ v ∨ (1 ≤ m.type.val ∧ m.type.val ≤ 24))) ∨ ((∃ p, f = .subMbType p) ∧ 17 ≤ v) ∨
          (f = .transform8x8 ∧ 2 ≤ v) →
        ∃ t, exec (.mbset f ra) s = .next t ∧ Raises .hostProtocolError s t)

/-- `TBSET` writes the one symbol it names in the one TransformBlock it names, and nothing else of `CUR`; `TOTAL_COEFF`
makes the block valid and zeroes its other symbols (R379). -/
def Obligations.TbsetWrites : Prop :=
  ∀ (c : Category) (sym : TbSymbol) (ra rb : Reg) (s : State) (m : MbRecord), s.halted = false → s.cur = some m →
    NamesBlock s c (s.u rb) → SymbolInRange sym (s.u ra) →
    (sym = .totalCoeff ∨ ∃ old, m.block (blockKey c (s.u rb)) = some old) →
    ∃ t m' b, exec (.tbset c sym ra rb) s = .next t ∧ WritesCur s t ∧ t.cur = some m' ∧ m' = { m with tbs := m'.tbs } ∧
      (∀ k, k ≠ blockKey c (s.u rb) → m'.block k = m.block k) ∧ m'.block (blockKey c (s.u rb)) = some b ∧
      (sym = .totalCoeff →
        b.totalCoeff.toNat = s.u ra ∧ b.trailingOnes = 0 ∧ b.nC = none ∧ b.t1sign.toList = List.replicate 3 false ∧
        b.levelPrefix.toList = List.replicate 16 0 ∧ b.levelSuffix.toList = List.replicate 16 0 ∧
        b.levelSuffixSize.toList = List.replicate 16 0 ∧ b.totalZeros = 0 ∧
        b.runBefore.toList = List.replicate 15 0) ∧
      ∀ old, m.block (blockKey c (s.u rb)) = some old →
        (sym = .trailingOnes → b = { old with trailingOnes := b.trailingOnes } ∧ b.trailingOnes.toNat = s.u ra) ∧
        (∀ e, sym = .t1Sign e → b = { old with t1sign := b.t1sign } ∧
          ∀ i : Nat, b.t1sign[i]? = if i = e.toNat then some (decide (s.u ra = 1)) else old.t1sign[i]?) ∧
        (∀ e, sym = .levelPrefix e → b = { old with levelPrefix := b.levelPrefix } ∧
          ∀ i : Nat, b.levelPrefix[i]? = if i = e.toNat then some (s.reg ra) else old.levelPrefix[i]?) ∧
        (∀ e z, sym = .levelSuffix e z →
          b = { old with levelSuffix := b.levelSuffix, levelSuffixSize := b.levelSuffixSize } ∧
          (∀ i : Nat, b.levelSuffix[i]? = if i = e.toNat then some (s.reg ra) else old.levelSuffix[i]?) ∧
          ∀ i : Nat, b.levelSuffixSize[i]? = if i = e.toNat then some z else old.levelSuffixSize[i]?) ∧
        (sym = .totalZeros → b = { old with totalZeros := b.totalZeros } ∧ b.totalZeros.toNat = s.u ra) ∧
        ∀ e, sym = .runBefore e → b = { old with runBefore := b.runBefore } ∧
          ∀ i : Nat, b.runBefore[i]? = if i = e.toNat then some (BitVec.ofNat 5 (s.u ra)) else old.runBefore[i]?

/-- `MBCOMMIT` appends `CUR` to `MBSTORE` and clears it while `MBCOUNT < MAX_MBS` (R380); `TBSET` (R379) and `MBCOMMIT` raise
`HostProtocolError` where there is no `CUR`, `MBCOMMIT` also at the capacity, `TBSET` also for a block that does not exist or is not valid and for a value out of range. -/
def Obligations.MbcommitAndRecordTraps : Prop :=
  ∀ s : State, s.halted = false →
    (∀ m, s.cur = some m → WithinMaxMbs s (s.mbstore.length + 1) →
      ∃ t, exec .mbcommit s = .next t ∧
        t = { s with mbstore := s.mbstore ++ [m], cur := none, cmdCnt := s.cmdCnt + 1 }) ∧
    (s.cur = none ∨ ¬WithinMaxMbs s (s.mbstore.length + 1) → ∃ t, exec .mbcommit s = .next t ∧ Raises .hostProtocolError s t) ∧
    ∀ (c : Category) (sym : TbSymbol) (ra rb : Reg),
      (s.cur = none ∨ ¬NamesBlock s c (s.u rb) ∨ ¬SymbolInRange sym (s.u ra) ∨
        (sym ≠ .totalCoeff ∧ ∃ m, s.cur = some m ∧ m.block (blockKey c (s.u rb)) = none)) →
      ∃ t, exec (.tbset c sym ra rb) s = .next t ∧ Raises .hostProtocolError s t

/-! ## Codes -/

/-- `EXPG` appends the order-`k` code of the value, zig-zag mapped where signed, in either polarity (R100 to R103),
except on the operands of R104. -/
def Obligations.ExpgAppends : Prop :=
  ∀ (signed reversed : Bool) (k : Fin 64) (ra : Reg) (s : State), s.halted = false →
    let v := s.s ra
    let u := if signed then (if v ≤ 0 then (-2 * v).toNat else (2 * v - 1).toNat) else s.u ra
    k.val ≤ 31 → ¬(signed = true ∧ v = -2 ^ 31) → ¬(k.val = 0 ∧ u = 2 ^ 32 - 1) →
    ∃ t m, exec (.expg signed reversed k ra) s = .next t ∧
      2 ^ m ≤ u / 2 ^ k.val + 1 ∧ u / 2 ^ k.val + 1 < 2 ^ (m + 1) ∧
      Appends (List.replicate m reversed ++ [!reversed] ++ bin (u / 2 ^ k.val + 1) m ++ bin (u % 2 ^ k.val) k.val)
        [] s t

/-- The overflows of R104 raise `ArithmeticOverflow` and emit nothing. -/
def Obligations.ExpgOverflows : Prop :=
  ∀ (signed reversed : Bool) (k : Fin 64) (ra : Reg) (s : State), s.halted = false →
    ((signed = true ∧ s.s ra = -2 ^ 31) ∨ (k.val = 0 ∧ signed = false ∧ s.u ra = 2 ^ 32 - 1) ∨ 31 < k.val) →
    ∃ t, exec (.expg signed reversed k ra) s = .next t ∧ Raises .arithmeticOverflow s t ∧ t.out = s.out

/-- The decoder of R106 inverts the order-`k` code of every number, in both polarities and whatever follows it; the code
is prefix-free; and it inverts the code of a signed value through the inverse of the zig-zag map (R101). -/
def Obligations.GolombRoundTrip : Prop :=
  (∀ (u k : Nat) (p : Bool) (rest : Bits), decodeEg k p (eg u k p ++ rest) = some (u, rest)) ∧
  (∀ (u w k : Nat) (p : Bool), eg u k p <+: eg w k p → u = w) ∧
  ∀ (v : Int) (p : Bool), (decodeEg 0 p (eg (zigzag v) 0 p)).map (fun r => unzig r.1) = some v

/-- `TU` (R120, R121): unary below the maximum, all ones without a terminator from it on. `FL` (R122, R123): exactly
`width` bits, the value modulo `2^width`, most significant bit first. `LEVELPFX` (R274): zeros closed by a one. -/
def Obligations.TuFlLevelpfxAppend : Prop :=
  ∀ (ra rb : Reg) (s : State), s.halted = false →
    (s.u ra < s.u rb →
      ∃ t, exec (.tu ra rb) s = .next t ∧ Appends (List.replicate (s.u ra) true ++ [false]) [] s t) ∧
    (s.u rb ≤ s.u ra → ∃ t, exec (.tu ra rb) s = .next t ∧ Appends (List.replicate (s.u rb) true) [] s t) ∧
    (∃ t bits, exec (.fl ra rb) s = .next t ∧ Appends bits [] s t ∧ bits.length = s.u rb ∧
      valueOf bits = s.u ra % 2 ^ s.u rb) ∧
    ∃ t, exec (.levelpfx ra) s = .next t ∧ Appends (List.replicate (s.u ra) false ++ [true]) [] s t

/-- `CBP` (R130, R131): the four luma bits, least significant first, then the chroma pattern where it is coded; above 47
`HostProtocolError`. `MBQPD` (R132, R133): the zig-zag image in unary, but for -2^31, which overflows. -/
def Obligations.CbpMbqpdAppend : Prop :=
  ∀ (ra : Reg) (s : State), s.halted = false →
    let v := s.u ra
    let d := s.s ra
    (v ≤ 47 →
      ∃ t, exec (.cbp ra) s = .next t ∧
        Appends ([decide (v % 2 = 1), decide (v / 2 % 2 = 1), decide (v / 4 % 2 = 1), decide (v / 8 % 2 = 1)] ++
          if s.geo.chromaArrayType = 1 ∨ s.geo.chromaArrayType = 2 then
            (if v / 16 = 0 then [false] else if v / 16 = 1 then [true, false] else [true, true])
          else []) [] s t) ∧
    (47 < v → ∃ t, exec (.cbp ra) s = .next t ∧ Raises .hostProtocolError s t) ∧
    (d ≠ -2 ^ 31 →
      ∃ t, exec (.mbqpd ra) s = .next t ∧
        Appends (List.replicate (if d ≤ 0 then (-2 * d).toNat else (2 * d - 1).toNat) true ++ [false]) [] s t) ∧
    (d = -2 ^ 31 → ∃ t, exec (.mbqpd ra) s = .next t ∧ Raises .arithmeticOverflow s t)

/-- `CALM1` never faults: unary below 14; from 14 on fourteen ones and the excess in the order-0 code of reversed
polarity (R134). -/
def Obligations.Calm1Appends : Prop :=
  ∀ (ra : Reg) (s : State), s.halted = false →
    (s.u ra < 14 →
      ∃ t, exec (.calm1 ra) s = .next t ∧ Appends (List.replicate (s.u ra) true ++ [false]) [] s t) ∧
    (14 ≤ s.u ra →
      ∃ t m, exec (.calm1 ra) s = .next t ∧ 2 ^ m ≤ s.u ra - 13 ∧ s.u ra - 13 < 2 ^ (m + 1) ∧
        Appends (List.replicate (14 + m) true ++ [false] ++ bin (s.u ra - 13) m) [] s t)

/-- `CALM1` emits the bits of `UEGK` with `ucoff = 14`, `k = 0`, unsigned (R135). -/
def Obligations.Calm1IsUegk : Prop :=
  ∀ (rd ra rb : Reg) (s : State), s.halted = false → s.u rb = 14 →
    ∃ t t', exec (.calm1 ra) s = .next t ∧ exec (.uegk false 0 rd ra rb) s = .next t' ∧ t.out = t'.out ∧
      t.outLen = t'.outLen

/-- `UEGK` appends prefix, suffix and sign and reports whether there is a suffix (R136, R137); an order above 31, or a
suffix too long for 32 bits, raises `ArithmeticOverflow`. -/
def Obligations.UegkAppends : Prop :=
  ∀ (signed : Bool) (k : Fin 64) (rd ra rb : Reg) (s : State), s.halted = false →
    let v : Int := if signed then s.s ra else s.u ra
    let a := v.natAbs
    let ucoff := s.u rb
    let q := (a - ucoff) / 2 ^ k.val + 1
    (k.val ≤ 31 → (ucoff ≤ a → q ≤ 2 ^ 32 - 1) →
      ∃ t suffix, exec (.uegk signed k rd ra rb) s = .next t ∧
        Appends ((if a < ucoff then List.replicate a true ++ [false] else List.replicate ucoff true) ++ suffix ++
          if signed = true ∧ v ≠ 0 then [decide (v < 0)] else []) [rd] s t ∧
        (t.reg rd).toNat = (if ucoff ≤ a then 1 else 0) ∧
        (a < ucoff → suffix = []) ∧
        (ucoff ≤ a → ∃ m, 2 ^ m ≤ q ∧ q < 2 ^ (m + 1) ∧
          suffix = List.replicate m true ++ [false] ++ bin q m ++ bin ((a - ucoff) % 2 ^ k.val) k.val)) ∧
    (31 < k.val ∨ (ucoff ≤ a ∧ 2 ^ 32 - 1 < q) →
      ∃ t, exec (.uegk signed k rd ra rb) s = .next t ∧ Raises .arithmeticOverflow s t)

/-- `MBTYPE` (R124) and `SUBMBTYPE` (R128) append what the slice's table has for the value, `MBTYPE` with `nested`; a value
without an entry, and a slice type above 9, raise `ContextDerivationError`. With the default tables (log entry 10) that is
the I-slice code, or the slice's own row, or the nesting prefix and the I-slice code (R125, R126, R341 to R345), and the
rows of R347. -/
def Obligations.TypeCodesAppended : Prop :=
  ∀ (rd ra : Reg) (s : State), s.halted = false →
    let st := (s.conf sliceType).toNat
    let sc := st % 5
    let v := s.u ra
    let emits := fun (bits : Bits) (nested : Word) =>
      ∃ t, exec (.mbtype rd ra) s = .next t ∧ Appends bits [rd] s t ∧ t.reg rd = nested
    let emitsSub := fun (bits : Bits) => ∃ t, exec (.submbtype ra) s = .next t ∧ Appends bits [] s t
    let noCode := ∃ t, exec (.mbtype rd ra) s = .next t ∧ Raises .contextDerivationError s t
    let noSubCode := ∃ t, exec (.submbtype ra) s = .next t ∧ Raises .contextDerivationError s t
    (9 < st → noCode ∧ noSubCode) ∧
    (∀ cls : SliceClass, st ≤ 9 → cls.number = sc →
      (∀ bits nested, s.params.mbTypeBinTable.entry cls v = some (bits, nested) → emits bits (if nested then 1 else 0)) ∧
      (s.params.mbTypeBinTable.entry cls v = none → noCode) ∧
      (∀ bits, s.params.subMbTypeBinTable.entry cls v = some bits → emitsSub bits) ∧
      (s.params.subMbTypeBinTable.entry cls v = none → noSubCode)) ∧
    (st ≤ 9 → s.params.mbTypeBinTable = Params.default.mbTypeBinTable →
      (sc = 2 → v ≤ 25 → emits (iTypeCode v) 0) ∧
      ((sc = 0 ∨ sc = 3) → v ≤ 3 → emits (false :: if v = 0 then [false, false] else bin (4 - v) 2) 0) ∧
      ((sc = 0 ∨ sc = 3) → 5 ≤ v → v ≤ 30 → emits (true :: iTypeCode (v - 5)) 1) ∧
      (sc = 1 → ∀ word, bTypeCodes[v]? = some (some word) → emits word 0) ∧
      (sc = 1 → v < 23 → ∃ word, bTypeCodes[v]? = some (some word)) ∧
      (sc = 1 → 23 ≤ v → v ≤ 48 → emits ([true, true, true, true, false, true] ++ iTypeCode (v - 23)) 1) ∧
      (sc = 4 → v = 0 → emits [false] 0) ∧
      (sc = 4 → 1 ≤ v → v ≤ 26 → emits (true :: iTypeCode (v - 1)) 1) ∧
      ((sc = 2 ∧ 25 < v) ∨ ((sc = 0 ∨ sc = 3) ∧ (v = 4 ∨ 30 < v)) ∨ (sc = 1 ∧ 48 < v) ∨ (sc = 4 ∧ 26 < v) → noCode)) ∧
    (st ≤ 9 → s.params.subMbTypeBinTable = Params.default.subMbTypeBinTable →
      ((sc = 0 ∨ sc = 3) → v ≤ 3 →
        emitsSub (if v = 0 then [true] else if v = 1 then [false, false] else false :: true :: [decide (v = 2)])) ∧
      (sc = 1 → v ≤ 12 → ∃ word, bSubTypeCodes[v]? = some word ∧ emitsSub word) ∧
      (sc = 2 ∨ sc = 4 ∨ ((sc = 0 ∨ sc = 3) ∧ 3 < v) ∨ (sc = 1 ∧ 12 < v) → noSubCode))

/-! ## Classification -/

/-- The queries on a macroblock type: `ISINTRA` (R162), `ISINTER` (R163), `NUMPART` (R164), `PARTDIM` (R166), `PARTPRED`
(R165), by the type's row of `MB_CLASS_TABLE`. That intra is the intra column of any such table is the model's reading
(log entry 10, DEDUCED): R162 says `MbT` 0 to 26, which that column is in the default table. What the row is in the default
table is R334 to R336 in closed form (log entry 10). -/
def Obligations.TypeQueries : Prop :=
  ∀ (rd ra rb : Reg) (s : State) (m : MbRecord), s.halted = false → NamesRecord s (s.u ra) m →
    let T := m.type.val
    let p := s.u rb
    let row := s.params.mbClassTable[m.type]
    let mode :=
      if row.numPart ≤ p ∧ T ≠ 33 ∧ T ≠ 56 then PredMode.na
      else if T = 0 then (if p ≠ 0 then .na else if m.t8x8 then .intra8x8 else .intra4x4)
      else if p = 0 then row.mode0 else if p = 1 then row.mode1 else .na
    let gives := fun (i : Instr) (n : Nat) => ∃ t, exec i s = .next t ∧ (t.reg rd).toNat = n ∧ WritesOnly [rd] s t
    gives (.isintra rd ra) (if row.intra then 1 else 0) ∧ gives (.isinter rd ra) (if row.intra then 0 else 1) ∧
    gives (.numpart rd ra) (row.numPart % 2 ^ 32) ∧
    gives (.partdim rd ra) (256 * row.size.width + row.size.height) ∧
    (p ≤ 3 → gives (.partpred rd ra rb) mode.code) ∧
    (s.params.mbClassTable = Params.default.mbClassTable →
      row.intra = decide (T ≤ 26) ∧ row.numPart = numPartOf T ∧ row.size.width = partWidthOf T ∧
      row.size.height = partHeightOf T ∧ (p ≤ 3 → mode.code = partPredOf T m.t8x8 p))

/-- The queries on a sub-macroblock: `NUMSUBPART` (R167), `SUBPARTPRED` (R168), `SUBPARTDIM` (R169), by the sub-type's row
of `SUB_MB_CLASS_TABLE`; four direct 4x4 sub-partitions in `B_Direct_16x16` and `B_Skip`; else `ContextDerivationError`.
And what the row is in the default table, R337 in closed form (log entry 10). -/
def Obligations.SubTypeQueries : Prop :=
  ∀ (rd ra rb : Reg) (s : State) (m : MbRecord), s.halted = false → NamesRecord s (s.u ra) m → s.u rb ≤ 3 →
    let T := m.type.val
    let gives := fun (i : Instr) (n : Nat) => ∃ t, exec i s = .next t ∧ (t.reg rd).toNat = n ∧ WritesOnly [rd] s t
    (∀ st : SubT, SubTypeIs m (s.u rb) st.val →
      let row := s.params.subMbClassTable[st]
      gives (.numsubpart rd ra rb) (row.numSubPart % 2 ^ 32) ∧ gives (.subpartpred rd ra rb) row.mode.code ∧
      gives (.subpartdim rd ra rb) (256 * row.size.width + row.size.height) ∧
      (s.params.subMbClassTable = Params.default.subMbClassTable →
        row.numSubPart = numSubPartOf st.val ∧ row.mode.code = subPredOf st.val ∧ row.size.width = subWidthOf st.val ∧
        row.size.height = subHeightOf st.val)) ∧
    (T = 33 ∨ T = 56 →
      gives (.numsubpart rd ra rb) 4 ∧ gives (.subpartpred rd ra rb) 6 ∧ gives (.subpartdim rd ra rb) 0x0404) ∧
    (T ≠ 33 → T ≠ 56 → (¬∃ st, SubTypeIs m (s.u rb) st) →
      ∀ i, i = .numsubpart rd ra rb ∨ i = .subpartpred rd ra rb ∨ i = .subpartdim rd ra rb →
        ∃ t, exec i s = .next t ∧ Raises .contextDerivationError s t)

/-- An index that names no record raises `HostProtocolError` in every operation that takes one, and a partition index
above 3 in those that take one (R160, R220, R242); so does a position outside the macroblock in `XY2PART`. That these
tests come before those of the sub-type, which raise another class, is log entry 22 (the model's choice for `XY2PART`,
DEDUCED for the partition index). -/
def Obligations.RecordOperandsTrap : Prop :=
  ∀ (rd ra rb rc : Reg) (chroma : Bool) (o : FrameOverride) (s : State) (i : Instr), s.halted = false →
    ((¬∃ m, NamesRecord s (s.u ra) m) →
      i = .isintra rd ra ∨ i = .isinter rd ra ∨ i = .numpart rd ra ∨ i = .partdim rd ra ∨ i = .partpred rd ra rb ∨
        i = .numsubpart rd ra rb ∨ i = .subpartpred rd ra rb ∨ i = .subpartdim rd ra rb ∨
        (i = .xy2part rd ra rb rc ∧ rd.val ≤ 14) ∨ (i = .neigh chroma o rd ra rb rc ∧ rd.val ≤ 13) →
      ∃ t, exec i s = .next t ∧ Raises .hostProtocolError s t) ∧
    (3 < s.u rb →
      i = .partpred rd ra rb ∨ i = .numsubpart rd ra rb ∨ i = .subpartpred rd ra rb ∨ i = .subpartdim rd ra rb →
      ∃ t, exec i s = .next t ∧ Raises .hostProtocolError s t) ∧
    (15 < s.u rb ∨ 15 < s.u rc → rd.val ≤ 14 → i = .xy2part rd ra rb rc →
      ∃ t, exec i s = .next t ∧ Raises .hostProtocolError s t)

/-! ## The slice-group map -/

/-- `SGMAP` completes where its tests pass, gives every macroblock of the picture a group 0 to 7 (R202), latches `M0` into
`MAP_UNITS_IN_SLICE_GROUP0` for map types 3 to 5 (R200), and changes nothing else. That it completes with
`FRAME_MBS_ONLY_FLAG` or `FIELD_PIC_FLAG` above 1 where the expansion case fits the picture size is the model's choice (log
entry 23): R190 tests only the misfit, R27 and U12 have such a value caught. -/
def Obligations.SgmapCompletes : Prop :=
  ∀ s : State, s.halted = false → MapReady s →
    let m0 := min ((s.conf sliceGroupChangeCycle).toNat * ((s.conf sliceGroupChangeRateMinus1).toNat + 1))
      s.geo.picSizeInMapUnits.toNat
    let changing := s.conf numSliceGroupsMinus1 ≠ 0 ∧ 3 ≤ (s.conf sliceGroupMapType).toNat ∧
      (s.conf sliceGroupMapType).toNat ≤ 5
    ∃ t f, exec .sgmap s = .next t ∧ MapIs s t f ∧ (∀ i, f i ≤ 7) ∧
      t = { s with
        map := t.map, geo := { s.geo with mapUnitsInSliceGroup0 := t.geo.mapUnitsInSliceGroup0 },
        cmdCnt := s.cmdCnt + 1 } ∧
      (changing → t.geo.mapUnitsInSliceGroup0.toNat = m0) ∧ (¬changing → t.geo = s.geo)

/-- The group of each map unit, by map type: one group (R191), types 0 (R193), 1 (R194), 2 (R195), 4 (R197), 5 (R198) and
6 (R199); `MapIs` says what R201 makes of it, a flag above 1 read as not 1 (the model's choice, log entry 23). Type 3 has a statement
of its own. -/
def Obligations.SgmapGroups : Prop :=
  ∀ s : State, s.halted = false → MapReady s → GeometryFits s →
    let w := s.geo.picWidthInMbs.toNat
    let h := s.geo.picHeightInMapUnits.toNat
    let n := s.geo.picSizeInMapUnits.toNat
    let g1 := (s.conf numSliceGroupsMinus1).toNat
    let ty := (s.conf sliceGroupMapType).toNat
    let d := (s.conf sliceGroupChangeDirectionFlag).toNat
    let m0 := min ((s.conf sliceGroupChangeCycle).toNat * ((s.conf sliceGroupChangeRateMinus1).toNat + 1)) n
    let split := if d = 1 then n - m0 else m0
    let start := fun g => ((List.range g).map fun j => (s.element .runLengthMinus1 j).toNat + 1).sum
    let inside := fun g i =>
      let tl := (s.element .topLeft g).toNat
      let br := (s.element .bottomRight g).toNat
      tl / w ≤ i / w ∧ i / w ≤ br / w ∧ tl % w ≤ i % w ∧ i % w ≤ br % w
    ∃ t f, exec .sgmap s = .next t ∧ MapIs s t f ∧ ∀ i, i < n →
      (g1 = 0 → f i = 0) ∧
      (g1 ≠ 0 → ty = 0 → ∀ g, g ≤ g1 → start g ≤ i % start (g1 + 1) → i % start (g1 + 1) < start (g + 1) → f i = g) ∧
      (g1 ≠ 0 → ty = 1 → f i = ((i % w) + (((i / w) * (g1 + 1)) / 2)) % (g1 + 1)) ∧
      (g1 ≠ 0 → ty = 2 →
        (∀ g, g < g1 → inside g i → (∀ j, j < g → ¬inside j i) → f i = g) ∧
        ((∀ g, g < g1 → ¬inside g i) → f i = g1)) ∧
      (g1 ≠ 0 → ty = 4 → f i = if i < split then d else 1 - d) ∧
      (g1 ≠ 0 → ty = 5 → f i = if (i % w) * h + i / w < split then d else 1 - d) ∧
      (g1 ≠ 0 → ty = 6 → f i = (s.element .sliceGroupId i).toNat)

/-- The faults of `SGMAP`, in the order of R190: no `SLICESTART` yet, a picture past `MAX_MBS`, registers changed since, an
unmapped number of groups or map type (R203), a direction flag above 1, a corner outside the picture (R195), a group id
above 7 (R199). That `FRAME_MBS_ONLY_FLAG` or `FIELD_PIC_FLAG` above 1 raises only by the misfit is the model's choice (log
entry 23). -/
def Obligations.SgmapFaults : Prop :=
  ∀ s : State, s.halted = false →
    let n := s.geo.picSizeInMapUnits.toNat
    let g1 := (s.conf numSliceGroupsMinus1).toNat
    let ty := (s.conf sliceGroupMapType).toNat
    let raises := fun f => ∃ t, exec .sgmap s = .next t ∧ Raises f s t
    let unchanged := (s.conf frameMbsOnlyFlag = 1 ∨ s.conf fieldPicFlag = 1) ↔
      s.geo.picSizeInMbs = s.geo.picSizeInMapUnits
    let fits := WithinMaxMbs s s.geo.picSizeInMbs.toNat
    (n = 0 ∨ ¬fits ∨ ¬unchanged → raises .hostProtocolError) ∧
    (n ≠ 0 → fits → unchanged → (7 < g1 ∨ (g1 ≠ 0 ∧ 6 < ty)) → raises .configurationError) ∧
    (n ≠ 0 → fits → unchanged → g1 ≠ 0 → g1 ≤ 7 →
      (3 ≤ ty ∧ ty ≤ 5 ∧ 1 < (s.conf sliceGroupChangeDirectionFlag).toNat) ∨
      (ty = 2 ∧ ∃ g, g < g1 ∧ (n ≤ (s.element .topLeft g).toNat ∨ n ≤ (s.element .bottomRight g).toNat)) ∨
      (ty = 6 ∧ ∃ i, i < n ∧ 7 < (s.element .sliceGroupId i).toNat) →
      raises .hostProtocolError)

/-- The two properties of R204, (a) type 0 with two groups and runs of one alternates 0, 1, 0, 1; (b) box-out assigns
exactly `min(slice_group_change_cycle * rate, pic_size_in_map_units)` map units to group 0; and which ones: for box-out
(R196) group 0 is the units at the first positions of the walk, group 1 every other. A frame or field flag above 1 is read
as not 1 (the model's choice, log entry 23). -/
def Obligations.SgmapProperties : Prop :=
  ∀ s : State, s.halted = false → MapReady s → GeometryFits s →
    let n := s.geo.picSizeInMapUnits.toNat
    let w := s.geo.picWidthInMbs.toNat
    let h := s.geo.picHeightInMapUnits.toNat
    let d := (s.conf sliceGroupChangeDirectionFlag).toNat
    let m0 := min ((s.conf sliceGroupChangeCycle).toNat * ((s.conf sliceGroupChangeRateMinus1).toNat + 1)) n
    (s.conf numSliceGroupsMinus1 = 1 → s.conf sliceGroupMapType = 0 → s.element .runLengthMinus1 0 = 0 →
      s.element .runLengthMinus1 1 = 0 → ∃ t, exec .sgmap s = .next t ∧ MapIs s t fun i => i % 2) ∧
    (s.conf numSliceGroupsMinus1 ≠ 0 → s.conf sliceGroupMapType = 3 →
      ∃ (t : State) (mu : List GroupId), exec .sgmap s = .next t ∧ mu.length = n ∧
        MapIs s t (fun i => (mu[i]?.getD 0).toNat) ∧ mu.count 0 = m0 ∧
        (0 < m0 → mu[((h - d) / 2) * w + (w - d) / 2]? = some 0) ∧
        ∃ j, ∀ i, i < n → mu[i]? = some (if i ∈ visited w h d j then 0 else 1))

/-- `MAPRD` reads one entry of the map, zero-extended, and changes no other state; with no map, or past the picture, it
raises `HostProtocolError` (R205). -/
def Obligations.MaprdReads : Prop :=
  ∀ (rd ra : Reg) (s : State), s.halted = false →
    (∀ (m : List GroupId) (g : GroupId), s.map = some m → s.u ra < s.geo.picSizeInMbs.toNat → m[s.u ra]? = some g →
      ∃ t, exec (.maprd rd ra) s = .next t ∧ (t.reg rd).toNat = g.toNat ∧ WritesOnly [rd] s t) ∧
    (s.map = none ∨ s.geo.picSizeInMbs.toNat ≤ s.u ra →
      ∃ t, exec (.maprd rd ra) s = .next t ∧ Raises .hostProtocolError s t)

/-! ## Neighbours -/

/-- `NEIGH` completes, in both regimes, for every offset of its window: it writes its three registers only (R221), the
position inside the macroblock it answers, and the answer is the engine's that `NC` and `RESBLK` use (R263); an offset
outside the window, chroma without a chroma array, and a picture not begun raise `HostProtocolError` (R220). In the MBAFF
regime, outside the macroblock, four things are the model's: it completes there, by an uninterpreted table, where R236 has
a model without the table refuse (log entry 5); a member of an available pair that is not in the store is answered "not
available" (log entry 6); `yW` is below the height whatever `yM` the table gives (log entry 15, DEDUCED); the current pair
is available by its top address (log entry 18, DEDUCED). -/
def Obligations.NeighCompletes : Prop :=
  ∀ (chroma : Bool) (o : FrameOverride) (rd ra rb rc : Reg) (s : State) (m : MbRecord), s.halted = false →
    rd.val ≤ 13 → NamesRecord s (s.u ra) m →
    let maxW : Int := if chroma then s.geo.mbWidthC.toNat else 16
    let maxH : Int := if chroma then s.geo.mbHeightC.toNat else 16
    let legal := (chroma = true → s.geo.chromaArrayType ≠ 0) ∧ s.geo.picWidthInMbs ≠ 0 ∧ -maxW ≤ s.s rb ∧
      s.s rb ≤ 2 * maxW - 1 ∧ -maxH ≤ s.s rc ∧ s.s rc ≤ 2 * maxH - 1
    (legal →
      ∃ t, exec (.neigh chroma o rd ra rb rc) s = .next t ∧
        WritesOnly [rd, regAfter rd, regAfter (regAfter rd)] s t ∧
        ((neighbour s m chroma o (s.s rb) (s.s rc) = .ok none ∧ NotAvailable rd t) ∨
          ∃ n, neighbour s m chroma o (s.s rb) (s.s rc) = .ok (some n) ∧ n.index < s.records.length ∧
            t.reg rd = BitVec.ofNat 32 n.index ∧ (t.reg (regAfter rd)).toNat = n.xW ∧
            (t.reg (regAfter (regAfter rd))).toNat = n.yW ∧ n.xW = (s.s rb + maxW) % maxW ∧ n.yW < maxH)) ∧
    (¬legal → ∃ t, exec (.neigh chroma o rd ra rb rc) s = .next t ∧ Raises .hostProtocolError s t)

/-- `NEIGH` in the non-MBAFF regime (R222 to R224, R226): inside the macroblock it answers the macroblock itself; outside
it the candidate that holds the position, where there is one and it is available; else "not available". -/
def Obligations.NeighNonMbaff : Prop :=
  ∀ (chroma : Bool) (o : FrameOverride) (rd ra rb rc : Reg) (s : State) (m : MbRecord), s.halted = false →
    rd.val ≤ 13 → NamesRecord s (s.u ra) m → RecordsOrdered s → s.geo.mbaffFrameFlag = 0 →
    let maxW : Int := if chroma then s.geo.mbWidthC.toNat else 16
    let maxH : Int := if chroma then s.geo.mbHeightC.toNat else 16
    let x := s.s rb
    let y := s.s rc
    let candidate := candidateOf s.geo.picWidthInMbs.toNat m.addr.toNat maxW maxH x y
    (chroma = true → s.geo.chromaArrayType ≠ 0) → s.geo.picWidthInMbs ≠ 0 →
    -maxW ≤ x → x ≤ 2 * maxW - 1 → -maxH ≤ y → y ≤ 2 * maxH - 1 →
    ∃ t, exec (.neigh chroma o rd ra rb rc) s = .next t ∧
      (0 ≤ x → x < maxW → 0 ≤ y → y < maxH →
        t.reg rd = s.reg ra ∧ (t.reg (regAfter rd)).toNat = x ∧ (t.reg (regAfter (regAfter rd))).toNat = y) ∧
      (x < 0 ∨ maxW ≤ x ∨ y < 0 ∨ maxH ≤ y →
        (∀ c i, candidate = some c → AvailableAt s m.addr.toNat c i →
          t.reg rd = BitVec.ofNat 32 i ∧ (t.reg (regAfter rd)).toNat = (x + maxW) % maxW ∧
          (t.reg (regAfter (regAfter rd))).toNat = (y + maxH) % maxH) ∧
        ((∀ c i, candidate = some c → ¬AvailableAt s m.addr.toNat c i) → NotAvailable rd t))

/-- "Neighbor A is unavailable whenever `mb_addr % pic_width_in_mbs == 0`; neighbor B is unavailable for every macroblock
in the picture's first row" (R225). -/
def Obligations.NeighAtEdges : Prop :=
  ∀ (chroma : Bool) (o : FrameOverride) (rd ra rb rc : Reg) (s : State) (m : MbRecord), s.halted = false →
    rd.val ≤ 13 → NamesRecord s (s.u ra) m → s.geo.mbaffFrameFlag = 0 →
    let w := s.geo.picWidthInMbs.toNat
    let maxW : Int := if chroma then s.geo.mbWidthC.toNat else 16
    let maxH : Int := if chroma then s.geo.mbHeightC.toNat else 16
    (chroma = true → s.geo.chromaArrayType ≠ 0) → w ≠ 0 →
    (m.addr.toNat % w = 0 ∧ -maxW ≤ s.s rb ∧ s.s rb < 0 ∧ 0 ≤ s.s rc ∧ s.s rc < maxH) ∨
      (m.addr.toNat < w ∧ 0 ≤ s.s rb ∧ s.s rb < maxW ∧ -maxH ≤ s.s rc ∧ s.s rc < 0) →
    ∃ t, exec (.neigh chroma o rd ra rb rc) s = .next t ∧ NotAvailable rd t

/-- `NEIGH` in the MBAFF regime, at the positions that need no `MBAFF_TABLE` (R233): below the macroblock, and right of it
in its rows, "not available"; inside it, the macroblock itself, whatever the override. Elsewhere the model answers by the
uninterpreted table of R236 (log entry 5). -/
def Obligations.NeighMbaff : Prop :=
  ∀ (chroma : Bool) (o : FrameOverride) (rd ra rb rc : Reg) (s : State) (m : MbRecord), s.halted = false →
    rd.val ≤ 13 → NamesRecord s (s.u ra) m → RecordsOrdered s → s.geo.mbaffFrameFlag ≠ 0 →
    let maxW : Int := if chroma then s.geo.mbWidthC.toNat else 16
    let maxH : Int := if chroma then s.geo.mbHeightC.toNat else 16
    let x := s.s rb
    let y := s.s rc
    (chroma = true → s.geo.chromaArrayType ≠ 0) → s.geo.picWidthInMbs ≠ 0 → -maxW ≤ x → x ≤ 2 * maxW - 1 →
    (maxH ≤ y → y ≤ 2 * maxH - 1 → ∃ t, exec (.neigh chroma o rd ra rb rc) s = .next t ∧ NotAvailable rd t) ∧
    (0 ≤ y → y < maxH → maxW ≤ x → ∃ t, exec (.neigh chroma o rd ra rb rc) s = .next t ∧ NotAvailable rd t) ∧
    (0 ≤ y → y < maxH → 0 ≤ x → x < maxW →
      ∃ t, exec (.neigh chroma o rd ra rb rc) s = .next t ∧ t.reg rd = s.reg ra ∧
        (t.reg (regAfter rd)).toNat = x ∧ (t.reg (regAfter (regAfter rd))).toNat = y)

/-- `BLK2XY` (R240) and `XY2BLK` (R241) by their tables, and where they raise `HostProtocolError`. -/
def Obligations.BlockPositions : Prop :=
  ∀ (rd ra rb : Reg) (s : State), s.halted = false →
    let b := s.u ra
    let x := s.u ra
    let y := s.u rb
    let chroma := s.geo.chromaArrayType ≠ 0 ∧ s.geo.chromaArrayType ≠ 3
    let corner := fun (k : BlkKind) (px py : Nat) =>
      ∃ t, exec (.blk2xy k rd ra) s = .next t ∧ (t.reg rd).toNat = px ∧ (t.reg (regAfter rd)).toNat = py ∧
        WritesOnly [rd, regAfter rd] s t
    let block := fun (k : BlkKind) (n : Nat) =>
      ∃ t, exec (.xy2blk k rd ra rb) s = .next t ∧ (t.reg rd).toNat = n ∧ WritesOnly [rd] s t
    (rd.val ≤ 14 → b ≤ 15 →
      corner .luma4x4 (((b / 4) % 2) * 8 + ((b % 4) % 2) * 4) (((b / 4) / 2) * 8 + ((b % 4) / 2) * 4)) ∧
    (rd.val ≤ 14 → b ≤ 3 → corner .luma8x8 ((b % 2) * 8) ((b / 2) * 8)) ∧
    (rd.val ≤ 14 → chroma → b < s.geo.mbHeightC.toNat / 2 → corner .chroma4x4 ((b % 2) * 4) ((b / 2) * 4)) ∧
    (x ≤ 15 → y ≤ 15 → block .luma4x4 (8 * (y / 8) + 4 * (x / 8) + 2 * ((y % 8) / 4) + ((x % 8) / 4))) ∧
    (x ≤ 15 → y ≤ 15 → block .luma8x8 (2 * (y / 8) + (x / 8))) ∧
    (chroma → x < s.geo.mbWidthC.toNat → y < s.geo.mbHeightC.toNat → block .chroma4x4 (2 * (y / 4) + (x / 4))) ∧
    (∀ k, rd.val ≤ 14 →
      (k = .luma4x4 ∧ 15 < b) ∨ (k = .luma8x8 ∧ 3 < b) ∨
        (k = .chroma4x4 ∧ (¬chroma ∨ s.geo.mbHeightC.toNat / 2 ≤ b)) →
      ∃ t, exec (.blk2xy k rd ra) s = .next t ∧ Raises .hostProtocolError s t) ∧
    ∀ k, (k ≠ .chroma4x4 ∧ (15 < x ∨ 15 < y)) ∨
        (k = .chroma4x4 ∧ (¬chroma ∨ s.geo.mbWidthC.toNat ≤ x ∨ s.geo.mbHeightC.toNat ≤ y)) →
      ∃ t, exec (.xy2blk k rd ra rb) s = .next t ∧ Raises .hostProtocolError s t

/-- `XY2BLK` of what `BLK2XY` answers is the block again, and `BLK2XY` of what `XY2BLK` answers is the position rounded down
to the block size (R241), for every block and position the commands accept. -/
def Obligations.BlockPositionsInverse : Prop :=
  ∀ (k : BlkKind) (rd q ra rb : Reg) (s t : State), GeometryFits s → rd.val ≤ 14 → s.halted = false →
    t.halted = false →
    (exec (.blk2xy k rd ra) s = .next t →
      ∃ t', exec (.xy2blk k q rd (regAfter rd)) t = .next t' ∧ t'.reg q = s.reg ra) ∧
    (exec (.xy2blk k q ra rb) s = .next t →
      let size := if k = .luma8x8 then 8 else 4
      ∃ t', exec (.blk2xy k rd q) t = .next t' ∧ (t'.reg rd).toNat = s.u ra / size * size ∧
        (t'.reg (regAfter rd)).toNat = s.u rb / size * size)

/-- `XY2PART` (R242): the partition that holds the position, by the partition size of the type's row; the sub-partition by
the row of the sub-type, in quarters for the direct types, 0 elsewhere; a sub-type that is missing or does not fit raises
`ContextDerivationError`. The partition is 0 in an intra type (R242), and that intra is the intra column of any
`MB_CLASS_TABLE` is the model's reading (log entry 10, DEDUCED). With the default tables the rows are R334 to R337 in closed
form, and the intra types `MbT` 0 to 26 (log entry 10). -/
def Obligations.Xy2partResult : Prop :=
  ∀ (rd ra rb rc : Reg) (s : State) (m : MbRecord), s.halted = false → rd.val ≤ 14 → NamesRecord s (s.u ra) m →
    s.u rb ≤ 15 → s.u rc ≤ 15 →
    let T := m.type.val
    let x := s.u rb
    let y := s.u rc
    let row := s.params.mbClassTable[m.type]
    let part := if row.intra then 0 else (16 / row.size.width) * (y / row.size.height) + x / row.size.width
    let gives := fun (sub : Nat) =>
      ∃ t, exec (.xy2part rd ra rb rc) s = .next t ∧ (t.reg rd).toNat = part ∧ (t.reg (regAfter rd)).toNat = sub ∧
        WritesOnly [rd, regAfter rd] s t
    (s.params.mbClassTable = Params.default.mbClassTable →
      part = if T ≤ 26 then 0 else (16 / partWidthOf T) * (y / partHeightOf T) + x / partWidthOf T) ∧
    (T ≠ 30 → T ≠ 31 → T ≠ 55 → T ≠ 33 → T ≠ 56 → gives 0) ∧
    (T = 33 ∨ T = 56 → gives (2 * ((y % 8) / 4) + (x % 8) / 4)) ∧
    (∀ st : SubT, SubTypeIs m part st.val →
      let size := s.params.subMbClassTable[st].size
      gives ((8 / size.width) * ((y % 8) / size.height) + (x % 8) / size.width) ∧
      (s.params.subMbClassTable = Params.default.subMbClassTable →
        size.width = subWidthOf st.val ∧ size.height = subHeightOf st.val)) ∧
    (T = 30 ∨ T = 31 ∨ T = 55 → (¬∃ st, SubTypeIs m part st) →
      ∃ t, exec (.xy2part rd ra rb rc) s = .next t ∧ Raises .contextDerivationError s t)

/-! ## The residual encoder -/

/-- `NC` writes the context of R262, computed from the contributions of R263 and R264, as a signed value and stores nothing
else; it lies in -2 to 16. An available neighbour block contributes only where `CONSTRAINED_INTRA_PRED_FLAG` and
`NAL_UNIT_TYPE` are in range; elsewhere `NC` faults, as `ResidualFaults` says (log entry 14). It completes in MBAFF frames
too, where R236 has a model without the table refuse: the neighbour blocks are then those of the uninterpreted
table (log entry 5), as `NeighCompletes` says (log entries 6, 15, 18). `CIP_NAL_TYPES` is any set (log entry 9), and intra
is the column of any `MB_CLASS_TABLE` (log entry 10, DEDUCED). -/
def Obligations.NcResult : Prop :=
  ∀ (c : Category) (rd ra : Reg) (s : State) (m : MbRecord) (nC : Int), s.halted = false →
    MayEncode s c (s.u ra) m → ContextIs s c m (s.u ra) nC →
    ∃ t, exec (.nc c rd ra) s = .next t ∧ (t.reg rd).toInt = nC ∧ WritesOnly [rd] s t ∧
      (RecordsInRange s → -2 ≤ nC ∧ nC ≤ 16)

/-- `COEFFTOKEN` (R270, R271): the word of the family of `nC`, for `total_coeff` to 16 and `trailing_ones` to 3; an absent
entry, or a value above those, raises `ContextDerivationError`, `nC` below -2 `HostProtocolError`. The default table (log
entry 10) has a word for exactly `trailing_ones <= min(3, total_coeff)` and `total_coeff` to 16, 8 or 4 (R301 to R306),
and for `N8` that of the closed form of R304. -/
def Obligations.CoefftokenAppends : Prop :=
  ∀ (ra rb rc : Reg) (s : State), s.halted = false →
    let nC := s.s ra
    let tc := s.u rb
    let t1 := s.u rc
    let present := t1 ≤ 3 ∧ t1 ≤ tc ∧ tc ≤ (if nC = -2 then 8 else if nC = -1 then 4 else 16)
    (nC < -2 → ∃ t, exec (.coefftoken ra rb rc) s = .next t ∧ Raises .hostProtocolError s t) ∧
    (-2 ≤ nC → ∃ cls, FamilyIs nC cls) ∧
    ∀ cls, FamilyIs nC cls →
      let entry := (s.params.coeffTokenTable.family cls).entry tc t1
      (∀ word, tc ≤ 16 → t1 ≤ 3 → entry = some word →
        ∃ t, exec (.coefftoken ra rb rc) s = .next t ∧ Appends word [] s t) ∧
      (16 < tc ∨ 3 < t1 ∨ entry = none →
        ∃ t, exec (.coefftoken ra rb rc) s = .next t ∧ Raises .contextDerivationError s t) ∧
      (s.params.coeffTokenTable = Params.default.coeffTokenTable →
        (present ↔ tc ≤ 16 ∧ t1 ≤ 3 ∧ ∃ word, entry = some word) ∧
        (8 ≤ nC → 0 < tc → present → entry = some (bin ((tc - 1) * 4 + t1) 6)))

/-- The four code words of `(total_coeff, trailing_ones) = (0, 0)` the document fixes (R272), for every `COEFF_TOKEN_TABLE`
that keeps them, as R317 has every replacement do; the default (log entry 10) does. -/
def Obligations.TokenBoundaries : Prop :=
  let keeps := fun (table : CoeffTokenTable) =>
    CodeTable.entry table.n0 0 0 = some [true] ∧ CodeTable.entry table.n2 0 0 = some [true, true] ∧
    CodeTable.entry table.n4 0 0 = some [true, true, true, true] ∧
    CodeTable.entry table.n8 0 0 = some [false, false, false, false, true, true]
  keeps Params.default.coeffTokenTable ∧
  ∀ (ra rb rc : Reg) (s : State), s.halted = false → keeps s.params.coeffTokenTable → s.u rb = 0 → s.u rc = 0 →
    let emits := fun (bits : Bits) => ∃ t, exec (.coefftoken ra rb rc) s = .next t ∧ Appends bits [] s t
    (0 ≤ s.s ra → s.s ra < 2 → emits [true]) ∧
    (2 ≤ s.s ra → s.s ra < 4 → emits [true, true]) ∧
    (4 ≤ s.s ra → s.s ra < 8 → emits [true, true, true, true]) ∧
    (8 ≤ s.s ra → emits [false, false, false, false, true, true])

/-- `TOTALZEROS` (R276) and `RUNBEFORE` (R278) emit the word their table has, and raise `ContextDerivationError` where it has
none, where `total_coeff` or `zerosLeft` is 0, and where `run_before` is above `zerosLeft` or 14. The default tables (log
entry 10) have a word for exactly the pairs of R310 to R312 and R315; a run of 7 or more is unary (R315). -/
def Obligations.TotalzerosRunbeforeAppend : Prop :=
  ∀ (c : CoeffClass) (ra rb : Reg) (s : State), s.halted = false →
    let max := match c with | .max4 => 4 | .max8 => 8 | .max16 => 16
    let tz := s.u ra
    let tc := s.u rb
    let run := s.u ra
    let zl := s.u rb
    let zerosEntry := (s.params.totalZerosTable.columns c).entry (tc - 1) tz
    let runEntry := CodeTable.entry s.params.runBeforeTable (min zl 7 - 1) run
    (∀ word, 1 ≤ tc → zerosEntry = some word →
      ∃ t, exec (.totalzeros c ra rb) s = .next t ∧ Appends word [] s t) ∧
    (tc = 0 ∨ zerosEntry = none →
      ∃ t, exec (.totalzeros c ra rb) s = .next t ∧ Raises .contextDerivationError s t) ∧
    (s.params.totalZerosTable = Params.default.totalZerosTable → 1 ≤ tc →
      ((∃ word, zerosEntry = some word) ↔ tc < max ∧ tz ≤ max - tc)) ∧
    (∀ word, 0 < zl → run ≤ zl → run ≤ 14 → runEntry = some word →
      ∃ t, exec (.runbefore ra rb) s = .next t ∧ Appends word [] s t) ∧
    (zl = 0 ∨ zl < run ∨ 14 < run ∨ runEntry = none →
      ∃ t, exec (.runbefore ra rb) s = .next t ∧ Raises .contextDerivationError s t) ∧
    (s.params.runBeforeTable = Params.default.runBeforeTable → 0 < zl → run ≤ zl → run ≤ 14 →
      ∃ word, runEntry = some word ∧ (6 < zl → run ≤ 6 → word = bin (7 - run) 3) ∧
        (6 < zl → 7 ≤ run → word = List.replicate (run - 4) false ++ [true]))

/-- `RESBLK` encodes the block: for every valid block that passes the checks of R281, in the context `NC` would compute, it
appends the block's code (R280, R282 to R284), stores the context in the block, and changes nothing else; and with the
default tables (log entry 10) every such block has a code. The context is that of `NcResult`, with the choices of the model
named there: in MBAFF frames by the uninterpreted table, where R236 has a model without it refuse (log entry 5; also 6,
15, 18), by `CIP_NAL_TYPES` (log entry 9) and the intra column (log entry 10), the two registers of R264 row 2 in range
wherever a neighbour block contributes (log entry 14). -/
def Obligations.ResblkEncodes : Prop :=
  ∀ (c : Category) (ra : Reg) (s : State) (m : MbRecord) (b : TransformBlock) (nC : Int), s.halted = false →
    MayEncode s c (s.u ra) m → ContextIs s c m (s.u ra) nC → m.block (blockKey c (s.u ra)) = some b →
    b.Consistent (maxCoeffOf s c) → RecordsInRange s →
    (∀ bits, b.CodedAs s.params nC (maxCoeffOf s c) bits →
      ∃ t m', exec (.resblk c ra) s = .next t ∧
        t = { s with
          out := s.out ++ bits, outLen := t.outLen, cur := some m', cmdCnt := s.cmdCnt + 1 } ∧
        (s.outLen.toNat + bits.length < 2 ^ 64 → t.outLen.toNat = s.outLen.toNat + bits.length) ∧
        m' = { m with tbs := m'.tbs } ∧ (∀ k, k ≠ blockKey c (s.u ra) → m'.block k = m.block k) ∧
        m'.block (blockKey c (s.u ra)) = some { b with nC := some (BitVec.ofInt 32 nC) }) ∧
    (s.params.coeffTokenTable = Params.default.coeffTokenTable →
      s.params.totalZerosTable = Params.default.totalZerosTable →
      s.params.runBeforeTable = Params.default.runBeforeTable →
      ∃ bits, b.CodedAs s.params nC (maxCoeffOf s c) bits)

/-- `RESBLK` may be issued again for the same block: it appends the code again and stores the same `nC` (R286). -/
def Obligations.ResblkRepeats : Prop :=
  ∀ (c : Category) (ra : Reg) (s t : State), exec (.resblk c ra) s = .next t → t.halted = false →
    ∃ t' bits, exec (.resblk c ra) t = .next t' ∧ t'.halted = false ∧ t.out = s.out ++ bits ∧ t'.out = t.out ++ bits ∧
      t'.cur = t.cur

/-- Where `NC` and `RESBLK` fault: the preconditions of R261 and, for `RESBLK`, a block that is not valid (R280) raise
`HostProtocolError`; a neighbour block whose count is missing (R264 row 6) and, for `RESBLK`, a block that fails a check
of R281 or needs an absent entry (R300) raise `ContextDerivationError`. `CONSTRAINED_INTRA_PRED_FLAG` above 1 and
`NAL_UNIT_TYPE` above 31 are caught where R264 row 2 reads them, at an available neighbour block (R27, U12): that this
raises `HostProtocolError`, before the count is looked at and whatever the other conditions of row 2, is the model's choice
(log entry 14). The neighbours are those of `NcResult`, with the
choices of the model named there: in MBAFF frames by the uninterpreted table, where R236 has a model without it refuse
(log entry 5; also 6, 15, 18); which of them count goes by `CIP_NAL_TYPES` (log entry 9) and the intra column (log entry
10). -/
def Obligations.ResidualFaults : Prop :=
  ∀ (c : Category) (rd ra : Reg) (s : State), s.halted = false →
    let raises := fun (i : Instr) (f : FaultClass) => ∃ t, exec i s = .next t ∧ Raises f s t
    ((¬∃ m, MayEncode s c (s.u ra) m) →
      raises (.nc c rd ra) .hostProtocolError ∧ raises (.resblk c ra) .hostProtocolError) ∧
    ∀ m, MayEncode s c (s.u ra) m →
      (m.block (blockKey c (s.u ra)) = none → raises (.resblk c ra) .hostProtocolError) ∧
      (c.code ≠ 9 →
        let x : Int := (blockXY (contextKind c) (s.u ra)).1
        let y : Int := (blockXY (contextKind c) (s.u ra)).2
        let atAOrB := fun (faulty : Int → Int → Prop) =>
          faulty (x - 1) y ∨ ((∃ nA, Contributes s c m (x - 1) y nA) ∧ faulty x (y - 1))
        (atAOrB (CountMissing s c m) → raises (.nc c rd ra) .contextDerivationError ∧
          ∀ b, m.block (blockKey c (s.u ra)) = some b → raises (.resblk c ra) .contextDerivationError) ∧
        (atAOrB (RegisterCaught s c m) →
          raises (.nc c rd ra) .hostProtocolError ∧ raises (.resblk c ra) .hostProtocolError)) ∧
      ∀ b nC, m.block (blockKey c (s.u ra)) = some b → ContextIs s c m (s.u ra) nC → RecordsInRange s →
        (¬b.Consistent (maxCoeffOf s c) ∨ ¬∃ bits, b.CodedAs s.params nC (maxCoeffOf s c) bits) →
        raises (.resblk c ra) .contextDerivationError

/-- What R307, R313, R316 and R346 say was checked of the default tables (log entry 10): no code word is a prefix of
another, and the Kraft sums, in units of 2^-16. -/
def Obligations.TablesPrefixFree : Prop :=
  let p := Params.default
  let words := fun (table : CodeTable) => table.flatten.filterMap id
  (∀ e ∈ [(TokenClass.n0, 65534), (.n2, 65528), (.n4, 65472), (.n8, 63488), (.cdc420, 65536), (.cdc422, 65480)],
    prefixFree (words (p.coeffTokenTable.family e.1)) = true ∧ kraft (words (p.coeffTokenTable.family e.1)) = e.2) ∧
  (∀ c ∈ [CoeffClass.max4, .max8, .max16], ∀ col ∈ p.totalZerosTable.columns c,
    prefixFree (words [col]) = true ∧ kraft (words [col]) = if (words [col]).length = 16 then 65408 else 65536) ∧
  (∀ col ∈ p.runBeforeTable,
    prefixFree (words [col]) = true ∧ kraft (words [col]) = if (words [col]).length = 15 then 65504 else 65536) ∧
  ∀ e ∈ [(SliceClass.i, 26), (.p, 30), (.sp, 30), (.b, 49), (.si, 27)],
    let codes := ((p.mbTypeBinTable.row e.1).filterMap id).map Prod.fst
    codes.length = e.2 ∧ prefixFree codes = true ∧ kraft codes = 65536

end
end

