-- ==== Sys2Proof/Laws/State.lean ====
section
/-!
SUPPORT. For every update of the state, what each field holds after it; and the accessors after the updates they meet.
-/

namespace Sys2Proof.Machine

/-! ## `State.setReg` -/

@[simp] theorem State.x_setReg (s : State) (r : Reg) (v : Word) : (s.setReg r v).x = s.x.set r v := rfl
@[simp] theorem State.written_setReg (s : State) (r : Reg) (v : Word) :
    (s.setReg r v).written = s.written.set r true := rfl
@[simp] theorem State.cfg_setReg (s : State) (r : Reg) (v : Word) : (s.setReg r v).cfg = s.cfg := rfl
@[simp] theorem State.runLength_setReg (s : State) (r : Reg) (v : Word) :
    (s.setReg r v).runLength = s.runLength := rfl
@[simp] theorem State.topLeft_setReg (s : State) (r : Reg) (v : Word) : (s.setReg r v).topLeft = s.topLeft := rfl
@[simp] theorem State.bottomRight_setReg (s : State) (r : Reg) (v : Word) :
    (s.setReg r v).bottomRight = s.bottomRight := rfl
@[simp] theorem State.sliceGroupId_setReg (s : State) (r : Reg) (v : Word) :
    (s.setReg r v).sliceGroupId = s.sliceGroupId := rfl
@[simp] theorem State.geo_setReg (s : State) (r : Reg) (v : Word) : (s.setReg r v).geo = s.geo := rfl
@[simp] theorem State.map_setReg (s : State) (r : Reg) (v : Word) : (s.setReg r v).map = s.map := rfl
@[simp] theorem State.mbstore_setReg (s : State) (r : Reg) (v : Word) : (s.setReg r v).mbstore = s.mbstore := rfl
@[simp] theorem State.cur_setReg (s : State) (r : Reg) (v : Word) : (s.setReg r v).cur = s.cur := rfl
@[simp] theorem State.out_setReg (s : State) (r : Reg) (v : Word) : (s.setReg r v).out = s.out := rfl
@[simp] theorem State.outLen_setReg (s : State) (r : Reg) (v : Word) : (s.setReg r v).outLen = s.outLen := rfl
@[simp] theorem State.status_setReg (s : State) (r : Reg) (v : Word) : (s.setReg r v).status = s.status := rfl
@[simp] theorem State.faultCmd_setReg (s : State) (r : Reg) (v : Word) : (s.setReg r v).faultCmd = s.faultCmd := rfl
@[simp] theorem State.cmdCnt_setReg (s : State) (r : Reg) (v : Word) : (s.setReg r v).cmdCnt = s.cmdCnt := rfl
@[simp] theorem State.port_setReg (s : State) (r : Reg) (v : Word) : (s.setReg r v).port = s.port := rfl
@[simp] theorem State.params_setReg (s : State) (r : Reg) (v : Word) : (s.setReg r v).params = s.params := rfl

/-! ## `State.setNat` -/

@[simp] theorem State.x_setNat (s : State) (r : Reg) (n : Nat) :
    (s.setNat r n).x = s.x.set r (BitVec.ofNat 32 n) := rfl
@[simp] theorem State.written_setNat (s : State) (r : Reg) (n : Nat) :
    (s.setNat r n).written = s.written.set r true := rfl
@[simp] theorem State.cfg_setNat (s : State) (r : Reg) (n : Nat) : (s.setNat r n).cfg = s.cfg := rfl
@[simp] theorem State.runLength_setNat (s : State) (r : Reg) (n : Nat) : (s.setNat r n).runLength = s.runLength := rfl
@[simp] theorem State.topLeft_setNat (s : State) (r : Reg) (n : Nat) : (s.setNat r n).topLeft = s.topLeft := rfl
@[simp] theorem State.bottomRight_setNat (s : State) (r : Reg) (n : Nat) :
    (s.setNat r n).bottomRight = s.bottomRight := rfl
@[simp] theorem State.sliceGroupId_setNat (s : State) (r : Reg) (n : Nat) :
    (s.setNat r n).sliceGroupId = s.sliceGroupId := rfl
@[simp] theorem State.geo_setNat (s : State) (r : Reg) (n : Nat) : (s.setNat r n).geo = s.geo := rfl
@[simp] theorem State.map_setNat (s : State) (r : Reg) (n : Nat) : (s.setNat r n).map = s.map := rfl
@[simp] theorem State.mbstore_setNat (s : State) (r : Reg) (n : Nat) : (s.setNat r n).mbstore = s.mbstore := rfl
@[simp] theorem State.cur_setNat (s : State) (r : Reg) (n : Nat) : (s.setNat r n).cur = s.cur := rfl
@[simp] theorem State.out_setNat (s : State) (r : Reg) (n : Nat) : (s.setNat r n).out = s.out := rfl
@[simp] theorem State.outLen_setNat (s : State) (r : Reg) (n : Nat) : (s.setNat r n).outLen = s.outLen := rfl
@[simp] theorem State.status_setNat (s : State) (r : Reg) (n : Nat) : (s.setNat r n).status = s.status := rfl
@[simp] theorem State.faultCmd_setNat (s : State) (r : Reg) (n : Nat) : (s.setNat r n).faultCmd = s.faultCmd := rfl
@[simp] theorem State.cmdCnt_setNat (s : State) (r : Reg) (n : Nat) : (s.setNat r n).cmdCnt = s.cmdCnt := rfl
@[simp] theorem State.port_setNat (s : State) (r : Reg) (n : Nat) : (s.setNat r n).port = s.port := rfl
@[simp] theorem State.params_setNat (s : State) (r : Reg) (n : Nat) : (s.setNat r n).params = s.params := rfl

/-! ## `State.setConf` -/

@[simp] theorem State.x_setConf (s : State) (r : ConfReg) (v : Word) : (s.setConf r v).x = s.x := rfl
@[simp] theorem State.written_setConf (s : State) (r : ConfReg) (v : Word) :
    (s.setConf r v).written = s.written := rfl
@[simp] theorem State.cfg_setConf (s : State) (r : ConfReg) (v : Word) : (s.setConf r v).cfg = s.cfg.set r v := rfl
@[simp] theorem State.runLength_setConf (s : State) (r : ConfReg) (v : Word) :
    (s.setConf r v).runLength = s.runLength := rfl
@[simp] theorem State.topLeft_setConf (s : State) (r : ConfReg) (v : Word) :
    (s.setConf r v).topLeft = s.topLeft := rfl
@[simp] theorem State.bottomRight_setConf (s : State) (r : ConfReg) (v : Word) :
    (s.setConf r v).bottomRight = s.bottomRight := rfl
@[simp] theorem State.sliceGroupId_setConf (s : State) (r : ConfReg) (v : Word) :
    (s.setConf r v).sliceGroupId = s.sliceGroupId := rfl
@[simp] theorem State.geo_setConf (s : State) (r : ConfReg) (v : Word) : (s.setConf r v).geo = s.geo := rfl
@[simp] theorem State.map_setConf (s : State) (r : ConfReg) (v : Word) : (s.setConf r v).map = s.map := rfl
@[simp] theorem State.mbstore_setConf (s : State) (r : ConfReg) (v : Word) :
    (s.setConf r v).mbstore = s.mbstore := rfl
@[simp] theorem State.cur_setConf (s : State) (r : ConfReg) (v : Word) : (s.setConf r v).cur = s.cur := rfl
@[simp] theorem State.out_setConf (s : State) (r : ConfReg) (v : Word) : (s.setConf r v).out = s.out := rfl
@[simp] theorem State.outLen_setConf (s : State) (r : ConfReg) (v : Word) : (s.setConf r v).outLen = s.outLen := rfl
@[simp] theorem State.status_setConf (s : State) (r : ConfReg) (v : Word) : (s.setConf r v).status = s.status := rfl
@[simp] theorem State.faultCmd_setConf (s : State) (r : ConfReg) (v : Word) :
    (s.setConf r v).faultCmd = s.faultCmd := rfl
@[simp] theorem State.cmdCnt_setConf (s : State) (r : ConfReg) (v : Word) : (s.setConf r v).cmdCnt = s.cmdCnt := rfl
@[simp] theorem State.port_setConf (s : State) (r : ConfReg) (v : Word) : (s.setConf r v).port = s.port := rfl
@[simp] theorem State.params_setConf (s : State) (r : ConfReg) (v : Word) : (s.setConf r v).params = s.params := rfl

/-! ## `State.emit` -/

@[simp] theorem State.x_emit (s : State) (bits : Bits) : (s.emit bits).x = s.x := rfl
@[simp] theorem State.written_emit (s : State) (bits : Bits) : (s.emit bits).written = s.written := rfl
@[simp] theorem State.cfg_emit (s : State) (bits : Bits) : (s.emit bits).cfg = s.cfg := rfl
@[simp] theorem State.runLength_emit (s : State) (bits : Bits) : (s.emit bits).runLength = s.runLength := rfl
@[simp] theorem State.topLeft_emit (s : State) (bits : Bits) : (s.emit bits).topLeft = s.topLeft := rfl
@[simp] theorem State.bottomRight_emit (s : State) (bits : Bits) : (s.emit bits).bottomRight = s.bottomRight := rfl
@[simp] theorem State.sliceGroupId_emit (s : State) (bits : Bits) : (s.emit bits).sliceGroupId = s.sliceGroupId := rfl
@[simp] theorem State.geo_emit (s : State) (bits : Bits) : (s.emit bits).geo = s.geo := rfl
@[simp] theorem State.map_emit (s : State) (bits : Bits) : (s.emit bits).map = s.map := rfl
@[simp] theorem State.mbstore_emit (s : State) (bits : Bits) : (s.emit bits).mbstore = s.mbstore := rfl
@[simp] theorem State.cur_emit (s : State) (bits : Bits) : (s.emit bits).cur = s.cur := rfl
@[simp] theorem State.out_emit (s : State) (bits : Bits) : (s.emit bits).out = s.out ++ bits := rfl
@[simp] theorem State.outLen_emit (s : State) (bits : Bits) :
    (s.emit bits).outLen = outLenAfter s.outLen bits.length := rfl
@[simp] theorem State.status_emit (s : State) (bits : Bits) : (s.emit bits).status = s.status := rfl
@[simp] theorem State.faultCmd_emit (s : State) (bits : Bits) : (s.emit bits).faultCmd = s.faultCmd := rfl
@[simp] theorem State.cmdCnt_emit (s : State) (bits : Bits) : (s.emit bits).cmdCnt = s.cmdCnt := rfl
@[simp] theorem State.port_emit (s : State) (bits : Bits) : (s.emit bits).port = s.port := rfl
@[simp] theorem State.params_emit (s : State) (bits : Bits) : (s.emit bits).params = s.params := rfl

/-! ## `State.retire` -/

@[simp] theorem State.x_retire (s : State) : (s.retire).x = s.x := rfl
@[simp] theorem State.written_retire (s : State) : (s.retire).written = s.written := rfl
@[simp] theorem State.cfg_retire (s : State) : (s.retire).cfg = s.cfg := rfl
@[simp] theorem State.runLength_retire (s : State) : (s.retire).runLength = s.runLength := rfl
@[simp] theorem State.topLeft_retire (s : State) : (s.retire).topLeft = s.topLeft := rfl
@[simp] theorem State.bottomRight_retire (s : State) : (s.retire).bottomRight = s.bottomRight := rfl
@[simp] theorem State.sliceGroupId_retire (s : State) : (s.retire).sliceGroupId = s.sliceGroupId := rfl
@[simp] theorem State.geo_retire (s : State) : (s.retire).geo = s.geo := rfl
@[simp] theorem State.map_retire (s : State) : (s.retire).map = s.map := rfl
@[simp] theorem State.mbstore_retire (s : State) : (s.retire).mbstore = s.mbstore := rfl
@[simp] theorem State.cur_retire (s : State) : (s.retire).cur = s.cur := rfl
@[simp] theorem State.out_retire (s : State) : (s.retire).out = s.out := rfl
@[simp] theorem State.outLen_retire (s : State) : (s.retire).outLen = s.outLen := rfl
@[simp] theorem State.status_retire (s : State) : (s.retire).status = s.status := rfl
@[simp] theorem State.faultCmd_retire (s : State) : (s.retire).faultCmd = s.faultCmd := rfl
@[simp] theorem State.cmdCnt_retire (s : State) : (s.retire).cmdCnt = s.cmdCnt + 1 := rfl
@[simp] theorem State.port_retire (s : State) : (s.retire).port = s.port := rfl
@[simp] theorem State.params_retire (s : State) : (s.retire).params = s.params := rfl

/-! ## `State.raise` -/

@[simp] theorem State.x_raise (s : State) (f : FaultClass) : (s.raise f).x = s.x := rfl
@[simp] theorem State.written_raise (s : State) (f : FaultClass) : (s.raise f).written = s.written := rfl
@[simp] theorem State.cfg_raise (s : State) (f : FaultClass) : (s.raise f).cfg = s.cfg := rfl
@[simp] theorem State.runLength_raise (s : State) (f : FaultClass) : (s.raise f).runLength = s.runLength := rfl
@[simp] theorem State.topLeft_raise (s : State) (f : FaultClass) : (s.raise f).topLeft = s.topLeft := rfl
@[simp] theorem State.bottomRight_raise (s : State) (f : FaultClass) : (s.raise f).bottomRight = s.bottomRight := rfl
@[simp] theorem State.sliceGroupId_raise (s : State) (f : FaultClass) :
    (s.raise f).sliceGroupId = s.sliceGroupId := rfl
@[simp] theorem State.geo_raise (s : State) (f : FaultClass) : (s.raise f).geo = s.geo := rfl
@[simp] theorem State.map_raise (s : State) (f : FaultClass) : (s.raise f).map = s.map := rfl
@[simp] theorem State.mbstore_raise (s : State) (f : FaultClass) : (s.raise f).mbstore = s.mbstore := rfl
@[simp] theorem State.cur_raise (s : State) (f : FaultClass) : (s.raise f).cur = s.cur := rfl
@[simp] theorem State.out_raise (s : State) (f : FaultClass) : (s.raise f).out = s.out := rfl
@[simp] theorem State.outLen_raise (s : State) (f : FaultClass) : (s.raise f).outLen = s.outLen := rfl
@[simp] theorem State.status_raise (s : State) (f : FaultClass) : (s.raise f).status = statusAfter f s.status := rfl
@[simp] theorem State.faultCmd_raise (s : State) (f : FaultClass) :
    (s.raise f).faultCmd = (if f.fatal && !s.halted then s.cmdCnt else s.faultCmd) := rfl
@[simp] theorem State.cmdCnt_raise (s : State) (f : FaultClass) : (s.raise f).cmdCnt = s.cmdCnt := rfl
@[simp] theorem State.port_raise (s : State) (f : FaultClass) : (s.raise f).port = s.port := rfl
@[simp] theorem State.params_raise (s : State) (f : FaultClass) : (s.raise f).params = s.params := rfl

/-! ## `State.openSlice` -/

@[simp] theorem State.x_openSlice (s : State) (g : Geometry) : (s.openSlice g).x = s.x := rfl
@[simp] theorem State.written_openSlice (s : State) (g : Geometry) : (s.openSlice g).written = s.written := rfl
@[simp] theorem State.cfg_openSlice (s : State) (g : Geometry) : (s.openSlice g).cfg = s.cfg := rfl
@[simp] theorem State.runLength_openSlice (s : State) (g : Geometry) : (s.openSlice g).runLength = s.runLength := rfl
@[simp] theorem State.topLeft_openSlice (s : State) (g : Geometry) : (s.openSlice g).topLeft = s.topLeft := rfl
@[simp] theorem State.bottomRight_openSlice (s : State) (g : Geometry) :
    (s.openSlice g).bottomRight = s.bottomRight := rfl
@[simp] theorem State.sliceGroupId_openSlice (s : State) (g : Geometry) :
    (s.openSlice g).sliceGroupId = s.sliceGroupId := rfl
@[simp] theorem State.geo_openSlice (s : State) (g : Geometry) : (s.openSlice g).geo = g := rfl
@[simp] theorem State.map_openSlice (s : State) (g : Geometry) : (s.openSlice g).map = none := rfl
@[simp] theorem State.mbstore_openSlice (s : State) (g : Geometry) : (s.openSlice g).mbstore = [] := rfl
@[simp] theorem State.cur_openSlice (s : State) (g : Geometry) : (s.openSlice g).cur = none := rfl
@[simp] theorem State.out_openSlice (s : State) (g : Geometry) : (s.openSlice g).out = s.out := rfl
@[simp] theorem State.outLen_openSlice (s : State) (g : Geometry) : (s.openSlice g).outLen = s.outLen := rfl
@[simp] theorem State.status_openSlice (s : State) (g : Geometry) : (s.openSlice g).status = s.status := rfl
@[simp] theorem State.faultCmd_openSlice (s : State) (g : Geometry) : (s.openSlice g).faultCmd = s.faultCmd := rfl
@[simp] theorem State.cmdCnt_openSlice (s : State) (g : Geometry) : (s.openSlice g).cmdCnt = s.cmdCnt := rfl
@[simp] theorem State.port_openSlice (s : State) (g : Geometry) : (s.openSlice g).port = s.port := rfl
@[simp] theorem State.params_openSlice (s : State) (g : Geometry) : (s.openSlice g).params = s.params := rfl

/-! ## `State.withMap` -/

@[simp] theorem State.x_withMap (s : State) (m : List GroupId) : (s.withMap m).x = s.x := rfl
@[simp] theorem State.written_withMap (s : State) (m : List GroupId) : (s.withMap m).written = s.written := rfl
@[simp] theorem State.cfg_withMap (s : State) (m : List GroupId) : (s.withMap m).cfg = s.cfg := rfl
@[simp] theorem State.runLength_withMap (s : State) (m : List GroupId) : (s.withMap m).runLength = s.runLength := rfl
@[simp] theorem State.topLeft_withMap (s : State) (m : List GroupId) : (s.withMap m).topLeft = s.topLeft := rfl
@[simp] theorem State.bottomRight_withMap (s : State) (m : List GroupId) :
    (s.withMap m).bottomRight = s.bottomRight := rfl
@[simp] theorem State.sliceGroupId_withMap (s : State) (m : List GroupId) :
    (s.withMap m).sliceGroupId = s.sliceGroupId := rfl
@[simp] theorem State.geo_withMap (s : State) (m : List GroupId) :
    (s.withMap m).geo = (if s.changingMap then { s.geo with
      mapUnitsInSliceGroup0 := BitVec.ofNat 32 (mapUnitsInGroup0 s) } else s.geo) := rfl
@[simp] theorem State.map_withMap (s : State) (m : List GroupId) : (s.withMap m).map = some m := rfl
@[simp] theorem State.mbstore_withMap (s : State) (m : List GroupId) : (s.withMap m).mbstore = s.mbstore := rfl
@[simp] theorem State.cur_withMap (s : State) (m : List GroupId) : (s.withMap m).cur = s.cur := rfl
@[simp] theorem State.out_withMap (s : State) (m : List GroupId) : (s.withMap m).out = s.out := rfl
@[simp] theorem State.outLen_withMap (s : State) (m : List GroupId) : (s.withMap m).outLen = s.outLen := rfl
@[simp] theorem State.status_withMap (s : State) (m : List GroupId) : (s.withMap m).status = s.status := rfl
@[simp] theorem State.faultCmd_withMap (s : State) (m : List GroupId) : (s.withMap m).faultCmd = s.faultCmd := rfl
@[simp] theorem State.cmdCnt_withMap (s : State) (m : List GroupId) : (s.withMap m).cmdCnt = s.cmdCnt := rfl
@[simp] theorem State.port_withMap (s : State) (m : List GroupId) : (s.withMap m).port = s.port := rfl
@[simp] theorem State.params_withMap (s : State) (m : List GroupId) : (s.withMap m).params = s.params := rfl

/-! ## `State.setElement` -/

@[simp] theorem State.x_setElement (s : State) (a : ArrayId) (i : Nat) (v : Word) :
    (s.setElement a i v).x = s.x := by cases a <;> rfl
@[simp] theorem State.written_setElement (s : State) (a : ArrayId) (i : Nat) (v : Word) :
    (s.setElement a i v).written = s.written := by cases a <;> rfl
@[simp] theorem State.cfg_setElement (s : State) (a : ArrayId) (i : Nat) (v : Word) :
    (s.setElement a i v).cfg = s.cfg := by cases a <;> rfl
@[simp] theorem State.geo_setElement (s : State) (a : ArrayId) (i : Nat) (v : Word) :
    (s.setElement a i v).geo = s.geo := by cases a <;> rfl
@[simp] theorem State.map_setElement (s : State) (a : ArrayId) (i : Nat) (v : Word) :
    (s.setElement a i v).map = s.map := by cases a <;> rfl
@[simp] theorem State.mbstore_setElement (s : State) (a : ArrayId) (i : Nat) (v : Word) :
    (s.setElement a i v).mbstore = s.mbstore := by cases a <;> rfl
@[simp] theorem State.cur_setElement (s : State) (a : ArrayId) (i : Nat) (v : Word) :
    (s.setElement a i v).cur = s.cur := by cases a <;> rfl
@[simp] theorem State.out_setElement (s : State) (a : ArrayId) (i : Nat) (v : Word) :
    (s.setElement a i v).out = s.out := by cases a <;> rfl
@[simp] theorem State.outLen_setElement (s : State) (a : ArrayId) (i : Nat) (v : Word) :
    (s.setElement a i v).outLen = s.outLen := by cases a <;> rfl
@[simp] theorem State.status_setElement (s : State) (a : ArrayId) (i : Nat) (v : Word) :
    (s.setElement a i v).status = s.status := by cases a <;> rfl
@[simp] theorem State.faultCmd_setElement (s : State) (a : ArrayId) (i : Nat) (v : Word) :
    (s.setElement a i v).faultCmd = s.faultCmd := by cases a <;> rfl
@[simp] theorem State.cmdCnt_setElement (s : State) (a : ArrayId) (i : Nat) (v : Word) :
    (s.setElement a i v).cmdCnt = s.cmdCnt := by cases a <;> rfl
@[simp] theorem State.port_setElement (s : State) (a : ArrayId) (i : Nat) (v : Word) :
    (s.setElement a i v).port = s.port := by cases a <;> rfl
@[simp] theorem State.params_setElement (s : State) (a : ArrayId) (i : Nat) (v : Word) :
    (s.setElement a i v).params = s.params := by cases a <;> rfl

/-! ## A general register after a write -/

@[simp] theorem State.reg_setReg_same (s : State) (r : Reg) (v : Word) : (s.setReg r v).reg r = v := by
  simp [State.reg]

@[simp] theorem State.reg_setReg_other (s : State) (q r : Reg) (v : Word) (h : q ≠ r) :
    (s.setReg r v).reg q = s.reg q := by
  have h' : r.val ≠ q.val := fun e => h (Fin.ext e.symm)
  simp [State.reg, h']

@[simp] theorem State.isWritten_setReg_same (s : State) (r : Reg) (v : Word) : (s.setReg r v).isWritten r = true := by
  simp [State.isWritten]

@[simp] theorem State.isWritten_setReg_other (s : State) (q r : Reg) (v : Word) (h : q ≠ r) :
    (s.setReg r v).isWritten q = s.isWritten q := by
  have h' : r.val ≠ q.val := fun e => h (Fin.ext e.symm)
  simp [State.isWritten, h']

theorem State.setNat_eq (s : State) (r : Reg) (n : Nat) : s.setNat r n = s.setReg r (BitVec.ofNat 32 n) := rfl

@[simp] theorem State.reg_setNat_same (s : State) (r : Reg) (n : Nat) :
    (s.setNat r n).reg r = BitVec.ofNat 32 n := State.reg_setReg_same s r _

@[simp] theorem State.reg_setNat_other (s : State) (q r : Reg) (n : Nat) (h : q ≠ r) :
    (s.setNat r n).reg q = s.reg q := State.reg_setReg_other s q r _ h

@[simp] theorem State.isWritten_setNat_same (s : State) (r : Reg) (n : Nat) : (s.setNat r n).isWritten r = true :=
  State.isWritten_setReg_same s r _

@[simp] theorem State.isWritten_setNat_other (s : State) (q r : Reg) (n : Nat) (h : q ≠ r) :
    (s.setNat r n).isWritten q = s.isWritten q := State.isWritten_setReg_other s q r _ h

@[simp] theorem State.reg_retire (s : State) (r : Reg) : s.retire.reg r = s.reg r := rfl
@[simp] theorem State.isWritten_retire (s : State) (r : Reg) : s.retire.isWritten r = s.isWritten r := rfl
@[simp] theorem State.reg_emit (s : State) (bits : Bits) (r : Reg) : (s.emit bits).reg r = s.reg r := rfl
@[simp] theorem State.isWritten_emit (s : State) (bits : Bits) (r : Reg) :
    (s.emit bits).isWritten r = s.isWritten r := rfl
@[simp] theorem State.reg_raise (s : State) (f : FaultClass) (r : Reg) : (s.raise f).reg r = s.reg r := rfl
@[simp] theorem State.isWritten_raise (s : State) (f : FaultClass) (r : Reg) :
    (s.raise f).isWritten r = s.isWritten r := rfl

/-! ## A configuration register after a write -/

@[simp] theorem State.conf_setConf_same (s : State) (r : ConfReg) (v : Word) : (s.setConf r v).conf r = v := by
  simp [State.conf]

@[simp] theorem State.conf_setConf_other (s : State) (q r : ConfReg) (v : Word) (h : q ≠ r) :
    (s.setConf r v).conf q = s.conf q := by
  have h' : r.val ≠ q.val := fun e => h (Fin.ext e.symm)
  simp [State.conf, h']

/-! ## The reset state -/

@[simp] theorem State.reg_reset (r : Reg) : State.reset.reg r = 0 := by simp [State.reg, State.reset]
@[simp] theorem State.isWritten_reset (r : Reg) : State.reset.isWritten r = false := by
  simp [State.isWritten, State.reset]
@[simp] theorem State.conf_reset (r : ConfReg) : State.reset.conf r = 0 := by simp [State.conf, State.reset]

/-! ## The parameters (R431) -/

@[simp] theorem State.params_softReset (s : State) : s.softReset.params = s.params := rfl

/-! ## The two registers after `rd` of a multi-register result -/

theorem regAfter_ne (r : Reg) : regAfter r ≠ r := by revert r; decide
theorem regAfter_regAfter_ne (r : Reg) : regAfter (regAfter r) ≠ r := by revert r; decide

end Sys2Proof.Machine
end

