-- ==== Sys2Proof/Laws/Ops.lean ====
section
/-!
SUPPORT. For each shared operation, once, everything it can do: a command, a test, a lookup, raising a fault, and the
three ways a command that retires can have changed the state.
-/

namespace Sys2Proof.Machine

/-! ## Tests and lookups -/

@[simp] theorem raiseIf_ok {bad : Bool} {f : FaultClass} {u : Unit} : raiseIf bad f = .ok u ↔ bad = false := by
  cases bad <;> simp [raiseIf]

@[simp] theorem raiseIf_error {bad : Bool} {f g : FaultClass} :
    raiseIf bad f = .error g ↔ bad = true ∧ g = f := by
  cases bad <;> simp [raiseIf, eq_comm]

theorem raiseIf_true (f : FaultClass) : raiseIf true f = .error f := rfl
theorem raiseIf_false (f : FaultClass) : raiseIf false f = .ok () := rfl

@[simp] theorem orRaise_ok {α : Type} {f : FaultClass} {o : Option α} {a : α} :
    orRaise f o = .ok a ↔ o = some a := by
  cases o <;> simp [orRaise]

@[simp] theorem orRaise_error {α : Type} {f g : FaultClass} {o : Option α} :
    orRaise f o = .error g ↔ o = none ∧ g = f := by
  cases o <;> simp [orRaise, eq_comm]

theorem orRaise_some {α : Type} (f : FaultClass) (a : α) : orRaise f (some a) = .ok a := rfl
theorem orRaise_none {α : Type} (f : FaultClass) : orRaise f (none : Option α) = .error f := rfl

/-- A sequence of tests succeeds if and only if each part does. -/
theorem bind_ok {α β : Type} {x : Except FaultClass α} {k : α → Except FaultClass β} {b : β} :
    (x >>= k) = .ok b ↔ ∃ a, x = .ok a ∧ k a = .ok b := by
  cases x <;> simp [bind, Except.bind]

/-- A sequence of tests raises the class of the first part that does. -/
theorem bind_error {α β : Type} {x : Except FaultClass α} {k : α → Except FaultClass β} {f : FaultClass} :
    (x >>= k) = .error f ↔ x = .error f ∨ ∃ a, x = .ok a ∧ k a = .error f := by
  cases x <;> simp [bind, Except.bind]

theorem ok_bind {α β : Type} (a : α) (k : α → Except FaultClass β) : ((.ok a : Except FaultClass α) >>= k) = k a := rfl
theorem error_bind {α β : Type} (f : FaultClass) (k : α → Except FaultClass β) :
    ((.error f : Except FaultClass α) >>= k) = .error f := rfl

/-! ## The capacity `MAX_MBS` (R8) -/

theorem overMaxMbs_false {s : State} {n : Nat} : s.params.overMaxMbs n = false ↔ WithinMaxMbs s n := by
  cases h : s.params.maxMbs <;> simp only [Params.overMaxMbs, WithinMaxMbs, h, Option.mem_def, decide_eq_false_iff_not]
  · exact ⟨fun _ _ h => (nomatch h), fun _ => trivial⟩
  · exact ⟨fun k _ e => Option.some.inj e ▸ Nat.le_of_not_lt k, fun k => Nat.not_lt.2 (k _ rfl)⟩

theorem atMaxMbs_false {s : State} {n : Nat} : s.params.atMaxMbs n = false ↔ WithinMaxMbs s (n + 1) := by
  cases h : s.params.maxMbs <;> simp only [Params.atMaxMbs, WithinMaxMbs, h, Option.mem_def, decide_eq_false_iff_not]
  · exact ⟨fun _ _ h => (nomatch h), fun _ => trivial⟩
  · exact ⟨fun k _ e => Option.some.inj e ▸ Nat.lt_of_not_le k, fun k => Nat.not_le.2 (k _ rfl)⟩

/-! ## Commands (R404, R405) -/

theorem command_ok {s t : State} (h : s.halted = false) : s.command (.ok t) = .next t.retire := by
  simp [State.command, h]

theorem command_error {s : State} {f : FaultClass} (h : s.halted = false) :
    s.command (.error f) = .next (s.raise f) := by
  simp [State.command, h]

theorem command_halted {s : State} {e : Effect} (h : s.halted = true) : s.command e = .next s := by
  simp [State.command, h]

/-- All a command can do: nothing while halted, else retire with its effect, or raise from the state it started in. -/
theorem command_cases {s t : State} {e : Effect} (h : s.command e = .next t) :
    (s.halted = true ∧ t = s) ∨ (s.halted = false ∧ ∃ u, e = .ok u ∧ t = u.retire) ∨
      (s.halted = false ∧ ∃ f, e = .error f ∧ t = s.raise f) := by
  cases hs : s.halted
  · cases e with
    | ok u => rw [command_ok hs] at h; exact .inr (.inl ⟨rfl, u, rfl, by injection h with h; exact h.symm⟩)
    | error f => rw [command_error hs] at h; exact .inr (.inr ⟨rfl, f, rfl, by injection h with h; exact h.symm⟩)
  · rw [command_halted hs] at h
    exact .inl ⟨rfl, by injection h with h; exact h.symm⟩

/-- A command always answers a next state. -/
theorem command_next (s : State) (e : Effect) : ∃ t, s.command e = .next t := by
  cases hs : s.halted
  · cases e with
    | ok u => exact ⟨_, command_ok hs⟩
    | error f => exact ⟨_, command_error hs⟩
  · exact ⟨s, command_halted hs⟩

/-! ## Raising a fatal class (R404) -/

theorem halted_eq (s : State) : s.halted = s.status.getLsbD 0 := rfl

/-- Every bit of `STATUS` after a fatal class met while `HALT = 0`. -/
theorem statusAfter_bit {f : FaultClass} {status : Word} (hf : f ≠ .rangeWarning) (h : haltBit status = false)
    (j : Nat) (hj : j < 32) :
    (statusAfter f status).getLsbD j =
      (j == 0 || j == f.stickyBit || if 8 ≤ j ∧ j < 16 then f.code.getLsbD (j - 8) else status.getLsbD j) := by
  cases f
  case rangeWarning => exact absurd rfl hf
  all_goals
    simp only [statusAfter, FaultClass.fatal, h, Bool.not_false, Bool.and_self, if_true]
    interval_cases j <;> simp [withHalt, withSticky, FaultClass.stickyBit, FaultClass.code]

/-- What raising a fatal class leaves, in the terms of R404. -/
theorem raise_raises {s : State} {f : FaultClass} (hf : f ≠ .rangeWarning) (h : s.halted = false) :
    Raises f s (s.raise f) := by
  have bit := statusAfter_bit (status := s.status) hf h
  have hs : f.stickyBit < 8 := by cases f <;> decide
  refine ⟨?_, ?_, ?_, ?_, ?_⟩
  · have hfatal : f.fatal = true := by cases f <;> first | rfl | exact absurd rfl hf
    simp [State.raise, hfatal, h]
  · exact (bit 0 (by omega)).trans (by simp)
  · exact (bit _ (by omega)).trans (by simp)
  · apply BitVec.eq_of_getLsbD_eq
    intro i hi
    have hb := bit (8 + i) (by omega)
    rw [if_pos (by omega)] at hb
    simp only [faultCode, State.status_raise, BitVec.getLsbD_extractLsb', hi, decide_true, Bool.true_and, hb]
    have h0 : (8 + i == 0) = false := by simp
    have h1 : (8 + i == f.stickyBit) = false := by simp; omega
    simp [h0, h1]
  · intro j h1 h2 h3
    by_cases hj : j < 32
    · refine (bit j hj).trans ?_
      rw [if_neg (by omega)]
      simp [h2, show j ≠ 0 by omega]
    · rw [BitVec.getLsbD_of_ge _ j (by omega), BitVec.getLsbD_of_ge _ j (by omega)]

/-! ## Retiring -/

theorem registersKept_refl (s : State) : RegistersKept [] s s := by simp [RegistersKept]

theorem registersKept_setReg (s : State) (r : Reg) (v : Word) : RegistersKept [r] s (s.setReg r v) := by
  refine ⟨fun q hq => State.reg_setReg_other s q r v (by simpa using hq), fun q => ?_⟩
  by_cases h : q = r
  · subst h; simp
  · simp [h]

theorem RegistersKept.trans {d e : List Reg} {s t u : State} (h : RegistersKept d s t) (k : RegistersKept e t u) :
    RegistersKept (d ++ e) s u := by
  refine ⟨fun q hq => ?_, fun q => ?_⟩
  · rw [k.1 q (fun m => hq (List.mem_append_right d m)), h.1 q (fun m => hq (List.mem_append_left e m))]
  · rw [k.2, h.2]
    simp [Bool.or_assoc]

/-- A command with no result. -/
theorem writesOnly_retire (s : State) : WritesOnly [] s s.retire := ⟨registersKept_refl s, rfl⟩

/-- A command with one result. -/
theorem writesOnly_setReg (s : State) (r : Reg) (v : Word) : WritesOnly [r] s (s.setReg r v).retire :=
  ⟨registersKept_setReg s r v, rfl⟩

theorem writesOnly_setNat (s : State) (r : Reg) (n : Nat) : WritesOnly [r] s (s.setNat r n).retire :=
  writesOnly_setReg s r _

/-- A command with two results. -/
theorem writesOnly_setReg2 (s : State) (q r : Reg) (v w : Word) :
    WritesOnly [q, r] s ((s.setReg q v).setReg r w).retire :=
  ⟨(registersKept_setReg s q v).trans (registersKept_setReg _ r w), rfl⟩

/-- A command with three results. -/
theorem writesOnly_setReg3 (s : State) (p q r : Reg) (u v w : Word) :
    WritesOnly [p, q, r] s (((s.setReg p u).setReg q v).setReg r w).retire :=
  ⟨((registersKept_setReg s p u).trans (registersKept_setReg _ q v)).trans (registersKept_setReg _ r w), rfl⟩

theorem outLenAfter_toNat {l : BitVec 64} {n : Nat} (h : l.toNat + n < 2 ^ 64) :
    (outLenAfter l n).toNat = l.toNat + n := by
  simp only [outLenAfter, h, if_true, BitVec.toNat_add, BitVec.toNat_ofNat]
  omega

/-- A command that appends bits. -/
theorem appends_emit (s : State) (bits : Bits) : Appends bits [] s (s.emit bits).retire :=
  ⟨by simp [RegistersKept], fun h => outLenAfter_toNat h, rfl⟩

/-- A command that appends bits and has one result. -/
theorem appends_emit_setReg (s : State) (bits : Bits) (r : Reg) (v : Word) :
    Appends bits [r] s ((s.emit bits).setReg r v).retire :=
  ⟨⟨(registersKept_setReg (s.emit bits) r v).1, (registersKept_setReg (s.emit bits) r v).2⟩,
    fun h => outLenAfter_toNat h, rfl⟩

theorem appends_emit_setNat (s : State) (bits : Bits) (r : Reg) (n : Nat) :
    Appends bits [r] s ((s.emit bits).setNat r n).retire := appends_emit_setReg s bits r _

/-! ## Taking a command word (R24) -/

theorem takeCommand_nil {s : State} (h : s.port = []) : s.takeCommand = none := by simp [State.takeCommand, h]

theorem takeCommand_cons {s : State} {w : CommandWord} {rest : List CommandWord} (h : s.port = w :: rest) :
    s.takeCommand = some (w, { s with port := rest }) := by simp [State.takeCommand, h]

end Sys2Proof.Machine
end

