-- ==== Sys2Proof/Laws/BoxOut.lean ====
section
/-!
SUPPORT. The box-out walk of R196 ends by count: for every `M0 <= N` the model's walk, which takes at most `boxOutFuel`
steps, assigns exactly `M0` map units to group 0 (log entry 16). The walk goes along the four legs of a box; a leg ends
at a turn, which moves one bound out, and once the box is the picture the next round visits every unit left. And the units
it assigns are those at the first positions of `spiral`.
-/

namespace Sys2Proof.Machine

namespace BoxOutWalk

/-- The leg of the box the walk is on. -/
inductive Leg where
  | left
  | up
  | right
  | down
  deriving DecidableEq

/-- `(xDir, yDir)` on a leg. -/
def Leg.dir : Leg → Int × Int
  | .left => (-1, 0)
  | .up => (0, -1)
  | .right => (1, 0)
  | .down => (0, 1)

/-- Unit `(i, j)` is on the leg, at the walk's position or before it. -/
def Leg.ahead (leg : Leg) (b : BoxOut) (i j : Int) : Prop :=
  match leg with
  | .left => j = b.y ∧ i ≤ b.x
  | .up => i = b.x ∧ j ≤ b.y
  | .right => j = b.y ∧ b.x ≤ i
  | .down => i = b.x ∧ b.y ≤ j

/-- The leg runs along its side of the box. -/
def Leg.onSide (leg : Leg) (d : Nat) (b : BoxOut) : Prop :=
  match leg with
  | .left => b.y = if d = 0 then b.bottomBound else b.topBound
  | .up => b.x = if d = 0 then b.leftBound else b.rightBound
  | .right => b.y = if d = 0 then b.topBound else b.bottomBound
  | .down => b.x = if d = 0 then b.rightBound else b.leftBound

/-- The walk stands where its leg ends. -/
def Leg.atEnd (leg : Leg) (b : BoxOut) : Prop :=
  match leg with
  | .left => b.x = b.leftBound
  | .up => b.y = b.topBound
  | .right => b.x = b.rightBound
  | .down => b.y = b.bottomBound

/-- The leg after a turn. -/
def Leg.next (d : Nat) : Leg → Leg
  | .left => if d = 0 then .up else .down
  | .up => if d = 0 then .right else .left
  | .right => if d = 0 then .down else .up
  | .down => if d = 0 then .left else .right

/-- Rows and columns of the picture outside the box. -/
def missing (w h : Nat) (b : BoxOut) : Nat :=
  b.leftBound.toNat + (w - 1 - b.rightBound.toNat) + b.topBound.toNat + (h - 1 - b.bottomBound.toNat)

/-- How many of three conditions hold in turn. -/
def inTurn (p q r : Prop) [Decidable p] [Decidable q] [Decidable r] : Nat :=
  if p then (if q then (if r then 3 else 2) else 1) else 0

/-- How many sides of the box last passed have reached the picture's edge. -/
def edges (w h d : Nat) (leg : Leg) (b : BoxOut) : Nat :=
  let lf := b.leftBound = 0
  let rt := b.rightBound = (w : Int) - 1
  let tp := b.topBound = 0
  let bt := b.bottomBound = (h : Int) - 1
  if d = 0 then
    match leg with
    | .up => inTurn lf bt rt
    | .right => inTurn tp lf bt
    | .down => inTurn rt tp lf
    | .left => inTurn bt rt tp
  else
    match leg with
    | .right => inTurn bt lf tp
    | .up => inTurn rt bt lf
    | .left => inTurn tp rt bt
    | .down => inTurn lf tp rt

/-- Steps to the end of the leg, counting the one that turns. -/
def Leg.rest (leg : Leg) (b : BoxOut) : Nat :=
  match leg with
  | .left => (b.x - b.leftBound).toNat + 1
  | .up => (b.y - b.topBound).toNat + 1
  | .right => (b.rightBound - b.x).toNat + 1
  | .down => (b.bottomBound - b.y).toNat + 1

/-- What every step makes smaller, until the whole picture is assigned. -/
def measure (w h d : Nat) (leg : Leg) (b : BoxOut) : Nat :=
  (4 * missing w h b + 3 - edges w h d leg b) * (w + h) + leg.rest b

/-- The walk stands inside its box, the box inside the picture, and the walk is on a leg. -/
structure OnLeg (w h d : Nat) (leg : Leg) (b : BoxOut) : Prop where
  l0 : 0 ≤ b.leftBound
  lx : b.leftBound ≤ b.x
  xr : b.x ≤ b.rightBound
  rw : b.rightBound ≤ (w : Int) - 1
  t0 : 0 ≤ b.topBound
  ty : b.topBound ≤ b.y
  yb : b.y ≤ b.bottomBound
  bh : b.bottomBound ≤ (h : Int) - 1
  dx : b.xDir = leg.dir.1
  dy : b.yDir = leg.dir.2
  sd : leg.onSide d b

/-- Every unit of the box outside the predicate is in group 0. -/
def FilledBut (w : Nat) (b : BoxOut) (p : Int → Int → Prop) : Prop :=
  ∀ i j : Nat, b.leftBound ≤ i → (i : Int) ≤ b.rightBound → b.topBound ≤ j → (j : Int) ≤ b.bottomBound →
    ¬p i j → b.mu[j * w + i]? = some (groupId 0)

/-- Every unit is in group 0 or 1, and `k` counts those in group 0. -/
structure Counted (w h : Nat) (b : BoxOut) : Prop where
  len : b.mu.length = w * h
  two : ∀ g ∈ b.mu, g = groupId 0 ∨ g = groupId 1
  cnt : b.mu.count (groupId 0) = b.k

/-- Every unit of the picture is in group 0. -/
def Whole (w h : Nat) (b : BoxOut) : Prop := ∀ i j : Nat, i < w → j < h → b.mu[j * w + i]? = some (groupId 0)

/-! ## The claim of one unit -/

theorem unit_eq {w : Nat} {b : BoxOut} (hx : 0 ≤ b.x) (hy : 0 ≤ b.y) : b.unit w = b.y.toNat * w + b.x.toNat := by
  unfold BoxOut.unit
  obtain ⟨x, hx⟩ := Int.eq_ofNat_of_zero_le hx
  obtain ⟨y, hy⟩ := Int.eq_ofNat_of_zero_le hy
  rw [hx, hy]
  simp only [Int.toNat_natCast]
  norm_cast

theorem unit_lt {w h d : Nat} {leg : Leg} {b : BoxOut} (G : OnLeg w h d leg b) : b.unit w < w * h := by
  obtain ⟨_, _, _, _, _, _, _, _, _, _, _⟩ := G
  rw [unit_eq (by omega) (by omega)]
  have h1 : b.x.toNat < w := by omega
  have h2 : b.y.toNat + 1 ≤ h := by omega
  calc b.y.toNat * w + b.x.toNat < (b.y.toNat + 1) * w := by rw [Nat.add_mul]; omega
    _ ≤ h * w := Nat.mul_le_mul_right w h2
    _ = w * h := Nat.mul_comm ..

/-- The claim moves nothing. -/
theorem claim_fields (w : Nat) (b : BoxOut) :
    b.claim w = { b with mu := (b.claim w).mu, k := (b.claim w).k } := by
  unfold BoxOut.claim; split <;> rfl

theorem claim_counted {w h : Nat} {b : BoxOut} (H : Counted w h b) :
    Counted w h (b.claim w) ∧ b.k ≤ (b.claim w).k ∧ (b.claim w).k ≤ b.k + 1 := by
  unfold BoxOut.claim
  by_cases hv : b.vacant w = true
  · rw [if_pos hv]
    unfold BoxOut.vacant at hv
    obtain ⟨hlt, hg⟩ := List.getElem?_eq_some_iff.1 (eq_of_beq hv)
    refine ⟨⟨by simpa using H.len, fun g hg' => ?_, ?_⟩, by simp, by simp⟩
    · rcases List.mem_or_eq_of_mem_set hg' with h1 | h1
      · exact H.two g h1
      · exact .inl h1
    · simp only []
      rw [List.count_set hlt, hg, H.cnt, if_neg (by decide), if_pos (by decide)]
      omega
  · rw [if_neg hv]
    exact ⟨H, by simp, by simp⟩

/-- After the claim the unit is in group 0, and so is every unit that was. -/
theorem claim_mu {w h : Nat} {b : BoxOut} (H : Counted w h b) (hu : b.unit w < w * h) :
    (b.claim w).mu[b.unit w]? = some (groupId 0) ∧
    ∀ n : Nat, b.mu[n]? = some (groupId 0) → (b.claim w).mu[n]? = some (groupId 0) := by
  have hl : b.unit w < b.mu.length := by rw [H.len]; exact hu
  unfold BoxOut.claim
  by_cases hv : b.vacant w = true
  · rw [if_pos hv]
    refine ⟨by simp [hl], fun n hn => ?_⟩
    simp only []
    rw [List.getElem?_set]
    split <;> simp_all
  · rw [if_neg hv]
    refine ⟨?_, fun n hn => hn⟩
    rw [List.getElem?_eq_getElem hl]
    rcases H.two _ (List.getElem_mem hl) with h1 | h1
    · rw [h1]
    · refine absurd ?_ hv
      unfold BoxOut.vacant
      rw [List.getElem?_eq_getElem hl, h1]
      decide

theorem onLeg_claim {w h d : Nat} {leg : Leg} {b : BoxOut} (G : OnLeg w h d leg b) : OnLeg w h d leg (b.claim w) := by
  rw [claim_fields]
  exact ⟨G.l0, G.lx, G.xr, G.rw, G.t0, G.ty, G.yb, G.bh, G.dx, G.dy, by have := G.sd; cases leg <;> exact this⟩

theorem measure_claim {w h d : Nat} {leg : Leg} {b : BoxOut} : measure w h d leg (b.claim w) = measure w h d leg b := by
  rw [claim_fields]
  cases leg <;> rfl

theorem filled_claim {w h d : Nat} {leg : Leg} {b : BoxOut} (G : OnLeg w h d leg b) (C : Counted w h b)
    (F : FilledBut w b (leg.ahead b)) :
    FilledBut w (b.claim w) fun i j => leg.ahead (b.claim w) i j ∧ ¬(i = b.x ∧ j = b.y) := by
  obtain ⟨m1, m2⟩ := claim_mu C (unit_lt G)
  intro i j h1 h2 h3 h4 h5
  rw [claim_fields] at h1 h2 h3 h4
  by_cases hp : (i : Int) = b.x ∧ (j : Int) = b.y
  · have : j * w + i = b.unit w := by
      obtain ⟨_, _, _, _, _, _, _, _, _, _, _⟩ := G
      rw [unit_eq (by omega) (by omega), ← hp.1, ← hp.2]
      simp
    rw [this]
    exact m1
  · refine m2 _ (F i j h1 h2 h3 h4 fun ha => h5 ⟨?_, hp⟩)
    rw [claim_fields]
    cases leg <;> exact ha

/-! ## The move of one step -/

theorem move_keeps (w h d : Nat) (b : BoxOut) : (b.move w h d).k = b.k ∧ (b.move w h d).mu = b.mu := by
  unfold BoxOut.move
  repeat' split
  all_goals exact ⟨rfl, rfl⟩

/-- The state after the turn that ends a leg (R196). -/
def turned (w h d : Nat) (leg : Leg) (b : BoxOut) : BoxOut :=
  match leg with
  | .left =>
    { b with leftBound := max (b.leftBound - 1) 0, x := max (b.leftBound - 1) 0, xDir := 0, yDir := 2 * (d : Int) - 1 }
  | .right =>
    { b with
      rightBound := min (b.rightBound + 1) ((w : Int) - 1), x := min (b.rightBound + 1) ((w : Int) - 1)
      xDir := 0, yDir := 1 - 2 * (d : Int) }
  | .up =>
    { b with topBound := max (b.topBound - 1) 0, y := max (b.topBound - 1) 0, xDir := 1 - 2 * (d : Int), yDir := 0 }
  | .down =>
    { b with
      bottomBound := min (b.bottomBound + 1) ((h : Int) - 1), y := min (b.bottomBound + 1) ((h : Int) - 1)
      xDir := 2 * (d : Int) - 1, yDir := 0 }

theorem move_turns {w h d : Nat} {leg : Leg} {b : BoxOut} (G : OnLeg w h d leg b) (he : leg.atEnd b) :
    b.move w h d = turned w h d leg b := by
  have hx := G.dx
  have hy := G.dy
  cases leg <;> simp_all [BoxOut.move, turned, Leg.dir, Leg.atEnd]

theorem move_goes {w h d : Nat} {leg : Leg} {b : BoxOut} (G : OnLeg w h d leg b) (he : ¬leg.atEnd b) :
    b.move w h d = { b with x := b.x + leg.dir.1, y := b.y + leg.dir.2 } := by
  have hx := G.dx
  have hy := G.dy
  cases leg <;> simp_all [BoxOut.move, Leg.dir, Leg.atEnd]

/-- One leg less is worth more than the longest leg. -/
theorem mul_step {p q n x y : Nat} (h : q + 1 ≤ p) (h1 : y ≤ n) (h2 : 1 ≤ x) : q * n + y < p * n + x := by
  have : (q + 1) * n ≤ p * n := Nat.mul_le_mul_right n h
  rw [Nat.add_mul] at this
  omega

/-- What a step leaves to do, and that it is less. -/
def Progress (w h d : Nat) (leg leg' : Leg) (b c : BoxOut) : Prop :=
  OnLeg w h d leg' c ∧ FilledBut w c (leg'.ahead c) ∧ measure w h d leg' c < measure w h d leg b

theorem goes_progress {w h d : Nat} {leg : Leg} {b : BoxOut} (hd : d = 0 ∨ d = 1) (G : OnLeg w h d leg b)
    (F : FilledBut w b fun i j => leg.ahead b i j ∧ ¬(i = b.x ∧ j = b.y)) (he : ¬leg.atEnd b) :
    Progress w h d leg leg b { b with x := b.x + leg.dir.1, y := b.y + leg.dir.2 } := by
  obtain ⟨l0, lx, xr, rw', t0, ty, yb, bh, dx, dy, sd⟩ := G
  obtain ⟨mu, x, y, l, t, r, bt, xd, yd, k⟩ := b
  refine ⟨?_, fun i j h1 h2 h3 h4 h5 => F i j h1 h2 h3 h4 ?_, ?_⟩
  · rcases hd with rfl | rfl <;> cases leg <;> constructor <;>
      simp [Leg.dir, Leg.onSide, Leg.atEnd] at * <;> omega
  · cases leg <;> simp only [Leg.ahead, Leg.dir, Leg.atEnd] at * <;> omega
  · cases leg <;> simp only [measure, missing, edges, Leg.rest, Leg.dir, Leg.atEnd] at * <;> omega

/-- A turn uses up one leg: the box has grown, or one side more has reached the edge. With `d = 0`. -/
theorem turned_fewer_zero {w h : Nat} {leg : Leg} {b : BoxOut} (hw : 0 < w) (hh : 0 < h) (G : OnLeg w h 0 leg b)
    (he : leg.atEnd b)
    (hn : ¬(b.leftBound = 0 ∧ b.bottomBound = (h : Int) - 1 ∧ b.rightBound = (w : Int) - 1 ∧ b.topBound = 0)) :
    4 * missing w h (turned w h 0 leg b) + 3 - edges w h 0 (leg.next 0) (turned w h 0 leg b) + 1 ≤
      4 * missing w h b + 3 - edges w h 0 leg b := by
  obtain ⟨l0, lx, xr, rw', t0, ty, yb, bh, dx, dy, sd⟩ := G
  obtain ⟨mu, x, y, l, t, r, bt, xd, yd, k⟩ := b
  clear dx dy
  simp only at l0 lx xr rw' t0 ty yb bh hn
  simp only [Leg.onSide, Leg.atEnd] at sd he
  cases leg <;> simp only [Leg.next, if_true] at sd he ⊢
  all_goals
    dsimp only [turned, missing, edges]
    simp only [if_true, inTurn]
    split_ifs <;> omega

/-- The same with `d = 1`. -/
theorem turned_fewer_one {w h : Nat} {leg : Leg} {b : BoxOut} (hw : 0 < w) (hh : 0 < h) (G : OnLeg w h 1 leg b)
    (he : leg.atEnd b)
    (hn : ¬(b.leftBound = 0 ∧ b.bottomBound = (h : Int) - 1 ∧ b.rightBound = (w : Int) - 1 ∧ b.topBound = 0)) :
    4 * missing w h (turned w h 1 leg b) + 3 - edges w h 1 (leg.next 1) (turned w h 1 leg b) + 1 ≤
      4 * missing w h b + 3 - edges w h 1 leg b := by
  obtain ⟨l0, lx, xr, rw', t0, ty, yb, bh, dx, dy, sd⟩ := G
  obtain ⟨mu, x, y, l, t, r, bt, xd, yd, k⟩ := b
  clear dx dy
  simp only at l0 lx xr rw' t0 ty yb bh hn
  simp only [Leg.onSide, Leg.atEnd] at sd he
  cases leg <;> simp only [Leg.next, one_ne_zero, if_false] at sd he ⊢
  all_goals
    dsimp only [turned, missing, edges]
    simp only [one_ne_zero, if_false, inTurn]
    split_ifs <;> omega

theorem turned_fewer {w h d : Nat} {leg : Leg} {b : BoxOut} (hd : d = 0 ∨ d = 1) (hw : 0 < w) (hh : 0 < h)
    (G : OnLeg w h d leg b) (he : leg.atEnd b)
    (hn : ¬(b.leftBound = 0 ∧ b.bottomBound = (h : Int) - 1 ∧ b.rightBound = (w : Int) - 1 ∧ b.topBound = 0)) :
    4 * missing w h (turned w h d leg b) + 3 - edges w h d (leg.next d) (turned w h d leg b) + 1 ≤
      4 * missing w h b + 3 - edges w h d leg b := by
  rcases hd with rfl | rfl
  · exact turned_fewer_zero hw hh G he hn
  · exact turned_fewer_one hw hh G he hn

theorem turned_progress {w h d : Nat} {leg : Leg} {b : BoxOut} (hd : d = 0 ∨ d = 1) (hw : 0 < w) (hh : 0 < h)
    (G : OnLeg w h d leg b) (F : FilledBut w b fun i j => leg.ahead b i j ∧ ¬(i = b.x ∧ j = b.y)) (he : leg.atEnd b)
    (hn : ¬(b.leftBound = 0 ∧ b.bottomBound = (h : Int) - 1 ∧ b.rightBound = (w : Int) - 1 ∧ b.topBound = 0)) :
    Progress w h d leg (leg.next d) b (turned w h d leg b) := by
  obtain ⟨l0, lx, xr, rw', t0, ty, yb, bh, dx, dy, sd⟩ := G
  obtain ⟨mu, x, y, l, t, r, bt, xd, yd, k⟩ := b
  refine ⟨?_, ?_, ?_⟩
  · rcases hd with rfl | rfl <;> cases leg <;> constructor <;>
      simp [Leg.dir, Leg.onSide, Leg.atEnd, Leg.next, turned] at * <;> omega
  · intro i j h1 h2 h3 h4 h5
    rcases hd with rfl | rfl <;> cases leg <;>
      simp only [turned, Leg.next, if_true, one_ne_zero, if_false] at h1 h2 h3 h4 h5 ⊢ <;>
      apply F i j <;>
      simp only [Leg.ahead, Leg.atEnd, Leg.onSide, if_true, one_ne_zero, if_false] at * <;> omega
  · apply mul_step (turned_fewer hd hw hh ⟨l0, lx, xr, rw', t0, ty, yb, bh, dx, dy, sd⟩ he hn)
    · rcases hd with rfl | rfl <;> cases leg <;>
        simp only [Leg.rest, turned, Leg.next, if_true, one_ne_zero, if_false] at * <;> omega
    · cases leg <;> simp [Leg.rest]

/-- After the claim, one step makes progress, unless every unit of the picture is assigned. -/
theorem move_progress {w h d : Nat} {leg : Leg} {b : BoxOut} (hd : d = 0 ∨ d = 1) (hw : 0 < w) (hh : 0 < h)
    (G : OnLeg w h d leg b) (F : FilledBut w b fun i j => leg.ahead b i j ∧ ¬(i = b.x ∧ j = b.y)) :
    Whole w h b ∨ ∃ leg', Progress w h d leg leg' b (b.move w h d) := by
  by_cases he : leg.atEnd b
  · rw [move_turns G he]
    by_cases hn : b.leftBound = 0 ∧ b.bottomBound = (h : Int) - 1 ∧ b.rightBound = (w : Int) - 1 ∧ b.topBound = 0
    · refine .inl fun i j hi hj => F i j ?_ ?_ ?_ ?_ ?_
      all_goals have := G.sd
      all_goals cases leg <;> simp only [Leg.ahead, Leg.atEnd] at * <;> omega
    · exact .inr ⟨_, turned_progress hd hw hh G F he hn⟩
  · rw [move_goes G he]
    exact .inr ⟨_, goes_progress hd G F he⟩

/-! ## The walk -/

theorem count_whole {w h : Nat} {b : BoxOut} (hw : 0 < w) (C : Counted w h b) (W : Whole w h b) : b.k = w * h := by
  rw [← C.cnt, ← C.len, List.count_eq_length]
  intro g hg
  obtain ⟨n, hn, rfl⟩ := List.mem_iff_getElem.1 hg
  have h1 : n / w < h := by
    rw [C.len] at hn
    exact Nat.div_lt_of_lt_mul hn
  have h2 := W (n % w) (n / w) (Nat.mod_lt _ hw) h1
  rw [show n / w * w + n % w = n by rw [Nat.mul_comm]; exact Nat.div_add_mod n w, List.getElem?_eq_getElem hn] at h2
  exact (Option.some.inj h2).symm

theorem counted_move {w h d : Nat} {b : BoxOut} (C : Counted w h b) : Counted w h (b.move w h d) := by
  obtain ⟨h1, h2⟩ := move_keeps w h d b
  exact ⟨h2 ▸ C.len, h2 ▸ C.two, by rw [h1, h2]; exact C.cnt⟩

theorem walk_done {w h d m0 fuel : Nat} {b : BoxOut} (hk : ¬b.k < m0) : boxOutWalk w h d m0 fuel b = b := by
  cases fuel <;> simp [boxOutWalk, hk]

theorem walk_count {w h d m0 : Nat} (hd : d = 0 ∨ d = 1) (hw : 0 < w) (hh : 0 < h) (hm : m0 ≤ w * h) :
    ∀ (fuel : Nat) (leg : Leg) (b : BoxOut), OnLeg w h d leg b → FilledBut w b (leg.ahead b) → Counted w h b →
      b.k ≤ m0 → measure w h d leg b ≤ fuel →
      Counted w h (boxOutWalk w h d m0 fuel b) ∧ (boxOutWalk w h d m0 fuel b).k = m0 := by
  intro fuel
  induction fuel with
  | zero =>
    intro leg b G F C hk hf
    have : 1 ≤ leg.rest b := by cases leg <;> simp [Leg.rest]
    unfold measure at hf
    omega
  | succ fuel ih =>
    intro leg b G F C hk hf
    by_cases hlt : b.k < m0
    · rw [boxOutWalk, if_pos hlt]
      obtain ⟨C1, k1, k2⟩ := claim_counted C
      have hkm := (move_keeps w h d (b.claim w)).1
      have F1 := filled_claim G C F
      rw [show b.x = (b.claim w).x by rw [claim_fields], show b.y = (b.claim w).y by rw [claim_fields]] at F1
      rcases move_progress hd hw hh (onLeg_claim G) F1 with W | ⟨leg', G2, F2, hlt2⟩
      · have hk1 := count_whole hw C1 W
        rw [walk_done (by rw [hkm, hk1]; omega)]
        exact ⟨counted_move C1, by rw [hkm]; omega⟩
      · rw [measure_claim] at hlt2
        exact ih leg' _ G2 F2 (counted_move C1) (by rw [hkm]; omega) (by omega)
    · rw [walk_done hlt]
      exact ⟨C, by omega⟩

/-! ## Which units it claims -/

/-- Where the model's walk stands. -/
def place (b : BoxOut) : Spiral :=
  { x := b.x, y := b.y, left := b.leftBound, top := b.topBound, right := b.rightBound, bottom := b.bottomBound,
    xDir := b.xDir, yDir := b.yDir }

theorem place_claim (w : Nat) (b : BoxOut) : place (b.claim w) = place b := by rw [claim_fields]; rfl

theorem place_ite {p : Prop} [Decidable p] (a b : BoxOut) : place (if p then a else b) = if p then place a else place b := by
  split <;> rfl

theorem place_move (w h d : Nat) (b : BoxOut) : place (b.move w h d) = (place b).next w h d := by
  unfold BoxOut.move
  simp only [place_ite]
  rfl

/-- Group 0 is the units of the positions before `j`, group 1 every other. -/
def Marks (w h d j : Nat) (mu : List GroupId) : Prop :=
  mu.length = w * h ∧ ∀ i, i < w * h → mu[i]? = some (if i ∈ visited w h d j then 0 else 1)

theorem mem_visited_succ {w h d j : Nat} {b : BoxOut} (S : spiral w h d j = place b) (i : Nat) :
    i ∈ visited w h d (j + 1) ↔ i ∈ visited w h d j ∨ i = b.unit w := by
  simp only [visited, List.range_succ, List.map_append, List.mem_append, List.map_cons, List.map_nil, List.mem_singleton, S]
  rfl

theorem marks_claim {w h d j : Nat} {b : BoxOut} (S : spiral w h d j = place b) (M : Marks w h d j b.mu) :
    Marks w h d (j + 1) (b.claim w).mu := by
  obtain ⟨hl, M⟩ := M
  unfold BoxOut.claim
  by_cases v : b.vacant w = true
  · rw [if_pos v]
    refine ⟨by simpa using hl, fun i hi => ?_⟩
    simp only [mem_visited_succ S]
    by_cases e : i = b.unit w
    · subst e; simp [groupId, hl, hi]
    · rw [List.getElem?_set_ne (Ne.symm e), M i hi]; simp [e]
  · rw [if_neg v]
    refine ⟨hl, fun i hi => ?_⟩
    simp only [mem_visited_succ S, M i hi]
    by_cases e : i = b.unit w
    · subst e
      by_cases m : b.unit w ∈ visited w h d j
      · simp [m]
      · exact absurd (by simp [BoxOut.vacant, M _ hi, m, groupId]) v
    · simp [e]

theorem walk_marks {w h d m0 fuel j : Nat} {b : BoxOut} (S : spiral w h d j = place b) (M : Marks w h d j b.mu) :
    ∃ k, Marks w h d k (boxOutWalk w h d m0 fuel b).mu := by
  induction fuel generalizing j b with
  | zero => exact ⟨j, M⟩
  | succ fuel ih =>
    unfold boxOutWalk
    split
    · refine ih (j := j + 1) (by rw [place_move, place_claim, ← S, spiral]) ?_
      rw [(move_keeps w h d _).2]
      exact marks_claim S M
    · exact ⟨j, M⟩

end BoxOutWalk

open BoxOutWalk

/-- "The loop ends by count. It ends for every `M0 <= N`" (R196): box-out assigns exactly `M0` of the `w * h` units to
group 0 and every other to group 1. -/
theorem boxOut_count {w h d m0 : Nat} (hd : d = 0 ∨ d = 1) (hw : 0 < w) (hh : 0 < h) (hm : m0 ≤ w * h) :
    (boxOut w h (w * h) d m0).length = w * h ∧ (boxOut w h (w * h) d m0).count (groupId 0) = m0 ∧
    ∀ g ∈ boxOut w h (w * h) d m0, g = groupId 0 ∨ g = groupId 1 := by
  have e1 : (w - d) / 2 < w := by omega
  have e2 : (h - d) / 2 < h := by omega
  have key := walk_count hd hw hh hm (boxOutFuel w h) (if d = 0 then .left else .down) (boxOutStart w h (w * h) d)
    ?_ ?_ ?_ ?_ ?_
  · exact ⟨key.1.len, key.1.cnt.trans key.2, key.1.two⟩
  · rcases hd with rfl | rfl <;> constructor <;> simp [boxOutStart, Leg.dir, Leg.onSide] <;> omega
  · intro i j h1 h2 h3 h4 h5
    refine absurd ?_ h5
    simp only [boxOutStart] at h1 h2 h3 h4
    rcases hd with rfl | rfl <;> simp [Leg.ahead, boxOutStart] <;> omega
  · refine ⟨by simp [boxOutStart], fun g hg => .inr (List.mem_replicate.1 hg).2, ?_⟩
    simp only [boxOutStart]
    rw [List.count_replicate, if_neg (by decide)]
  · simp [boxOutStart]
  · have hrest : (if d = 0 then Leg.left else Leg.down).rest (boxOutStart w h (w * h) d) = 1 := by
      rcases hd with rfl | rfl <;> simp [Leg.rest, boxOutStart]
    have hmiss : missing w h (boxOutStart w h (w * h) d) ≤ w + h := by simp only [missing, boxOutStart]; omega
    unfold BoxOutWalk.measure boxOutFuel
    rw [hrest]
    calc _ ≤ (4 * (w + h) + 3) * (w + h) + (w + h) :=
          Nat.add_le_add (Nat.mul_le_mul_right _ (by omega)) (by omega)
      _ = (4 * (w + h) + 4) * (w + h) := by ring

/-- Box-out claims the units at the first positions of the walk (R196). -/
theorem boxOut_marks (w h d m0 : Nat) : ∃ j, Marks w h d j (boxOut w h (w * h) d m0) :=
  walk_marks (j := 0) rfl ⟨by simp [boxOutStart], fun i hi => by simp [boxOutStart, visited, hi, groupId]⟩

end Sys2Proof.Machine
end

