-- ==== Sys2Proof/Laws/Encoding.lean ====
section
/-!
SUPPORT. The field positions of the command word (R80), once.
-/

namespace Sys2Proof

/-- A bit of the word made of some fields. -/
theorem Fields.toWord_bit (f : Fields) (i : Nat) :
    f.toWord.getLsbD i =
      if i < 32 then f.imm.getLsbD i else if i < 40 then f.fn.getLsbD (i - 32) else if i < 44 then f.rc.getLsbD (i - 40)
      else if i < 48 then f.rb.getLsbD (i - 44) else if i < 52 then f.ra.getLsbD (i - 48)
      else if i < 56 then f.rd.getLsbD (i - 52) else f.op.getLsbD (i - 56) := by
  obtain ⟨op, rd, ra, rb, rc, fn, imm⟩ := f
  change BitVec.getLsbD (w := 8 + 4 + 4 + 4 + 4 + 8 + 32) (op ++ rd ++ ra ++ rb ++ rc ++ fn ++ imm) i = _
  simp only [BitVec.getLsbD_append, Nat.sub_sub]
  repeat' split
  all_goals first | rfl | omega

/-- The fields of the word made of some fields. -/
@[simp] theorem Fields.ofWord_toWord (f : Fields) : Fields.ofWord f.toWord = f := by
  obtain ⟨op, rd, ra, rb, rc, fn, imm⟩ := f
  simp only [Fields.ofWord, Fields.mk.injEq]
  refine ⟨?_, ?_, ?_, ?_, ?_, ?_, ?_⟩ <;>
    (apply BitVec.eq_of_getLsbD_eq
     intro i hi
     simp only [BitVec.getLsbD_extractLsb', Fields.toWord_bit, hi, decide_true, Bool.true_and]
     repeat' split
     all_goals first | omega | (congr 1; omega))

/-- A word is made of its fields. -/
@[simp] theorem Fields.toWord_ofWord (w : CommandWord) : (Fields.ofWord w).toWord = w := by
  apply BitVec.eq_of_getLsbD_eq
  intro i hi
  simp only [Fields.toWord_bit, Fields.ofWord, BitVec.getLsbD_extractLsb']
  repeat' split
  all_goals
    rw [decide_eq_true (by omega), Bool.true_and]
    congr 1
    omega

end Sys2Proof
end

