-- ==== Sys2Proof/Laws/Memory.lean ====
section
/-!
SUPPORT. Finite maps by rising key and the word store: reading after writing, and that every operation keeps the
canonical form.
-/

namespace Sys2Proof.Machine

variable {α : Type}

/-! ## Finite maps -/

/-- Every key of the map is above `k`. -/
def keysAbove (k : Nat) (m : List (Nat × α)) : Prop := ∀ e ∈ m, k < e.1

theorem keysRise_cons (k : Nat) (a : α) (m : List (Nat × α)) :
    keysRise ((k, a) :: m) = true ↔ keysAbove k m ∧ keysRise m = true := by
  induction m generalizing k a with
  | nil => simp [keysRise, keysAbove]
  | cons e rest ih =>
    obtain ⟨j, b⟩ := e
    simp only [keysRise, Bool.and_eq_true, decide_eq_true_eq]
    constructor
    · rintro ⟨hkj, hr⟩
      refine ⟨?_, hr⟩
      intro e he
      rcases List.mem_cons.1 he with rfl | he
      · exact hkj
      · exact lt_trans hkj (((ih j b).1 hr).1 e he)
    · rintro ⟨ha, hr⟩
      exact ⟨ha (j, b) (List.mem_cons_self ..), hr⟩

theorem entryAt_none_of_above {k j : Nat} {m : List (Nat × α)} (h : keysAbove k m) (hj : j ≤ k) :
    entryAt j m = none := by
  induction m with
  | nil => rfl
  | cons e rest ih =>
    obtain ⟨i, a⟩ := e
    have hi : k < i := h (i, a) (List.mem_cons_self ..)
    rw [entryAt, if_neg (by omega)]
    exact ih fun e he => h e (List.mem_cons_of_mem _ he)

@[simp] theorem entryAt_setEntry_same (k : Nat) (a : α) (m : List (Nat × α)) : entryAt k (setEntry k a m) = some a := by
  induction m with
  | nil => simp [setEntry, entryAt]
  | cons e rest ih =>
    obtain ⟨j, b⟩ := e
    simp only [setEntry]
    split
    · simp [entryAt]
    · split
      · simp [entryAt]
      · rename_i h1 h2
        rw [entryAt, if_neg (fun h => h2 h.symm), ih]

@[simp] theorem entryAt_setEntry_other {k j : Nat} (a : α) (m : List (Nat × α)) (h : j ≠ k) :
    entryAt j (setEntry k a m) = entryAt j m := by
  induction m with
  | nil => simp [setEntry, entryAt, h.symm]
  | cons e rest ih =>
    obtain ⟨i, b⟩ := e
    simp only [setEntry]
    split
    · rw [entryAt, if_neg h.symm]
    · split
      · rename_i h1 h2
        subst h2
        simp [entryAt, h.symm]
      · simp only [entryAt, ih]

theorem entryAt_dropEntry_same {k : Nat} {m : List (Nat × α)} (h : keysRise m = true) :
    entryAt k (dropEntry k m) = none := by
  induction m with
  | nil => rfl
  | cons e rest ih =>
    obtain ⟨j, b⟩ := e
    have hk := (keysRise_cons j b rest).1 h
    simp only [dropEntry]
    split
    · rename_i hj
      exact entryAt_none_of_above hk.1 (by omega)
    · rename_i hj
      rw [entryAt, if_neg hj, ih hk.2]

theorem entryAt_dropEntry_other {k j : Nat} (m : List (Nat × α)) (h : j ≠ k) :
    entryAt j (dropEntry k m) = entryAt j m := by
  induction m with
  | nil => rfl
  | cons e rest ih =>
    obtain ⟨i, b⟩ := e
    simp only [dropEntry]
    split
    · rename_i hi
      subst hi
      simp [entryAt, h.symm]
    · simp only [entryAt, ih]

theorem keysAbove_setEntry {k j : Nat} {a : α} {m : List (Nat × α)} (h : keysAbove j m) (hk : j < k) :
    keysAbove j (setEntry k a m) := by
  induction m with
  | nil => simpa [setEntry, keysAbove] using hk
  | cons e rest ih =>
    obtain ⟨i, b⟩ := e
    have hr : keysAbove j rest := fun e he => h e (List.mem_cons_of_mem _ he)
    have hi : j < i := h (i, b) (List.mem_cons_self ..)
    simp only [setEntry]
    split
    · intro e he
      rcases List.mem_cons.1 he with rfl | he
      · exact hk
      · exact h e he
    · split
      · intro e he
        rcases List.mem_cons.1 he with rfl | he
        · exact hk
        · exact hr e he
      · intro e he
        rcases List.mem_cons.1 he with rfl | he
        · exact hi
        · exact ih hr e he

theorem keysAbove_dropEntry {k j : Nat} {m : List (Nat × α)} (h : keysAbove j m) : keysAbove j (dropEntry k m) := by
  induction m with
  | nil => exact h
  | cons e rest ih =>
    obtain ⟨i, b⟩ := e
    have hr : keysAbove j rest := fun e he => h e (List.mem_cons_of_mem _ he)
    simp only [dropEntry]
    split
    · exact hr
    · intro e he
      rcases List.mem_cons.1 he with rfl | he
      · exact h _ (List.mem_cons_self ..)
      · exact ih hr e he

/-- Setting an entry keeps the keys rising. -/
theorem keysRise_setEntry {k : Nat} {a : α} {m : List (Nat × α)} (h : keysRise m = true) :
    keysRise (setEntry k a m) = true := by
  induction m with
  | nil => rfl
  | cons e rest ih =>
    obtain ⟨j, b⟩ := e
    have hj := (keysRise_cons j b rest).1 h
    simp only [setEntry]
    split
    · rename_i hkj
      refine (keysRise_cons k a _).2 ⟨?_, h⟩
      intro e he
      rcases List.mem_cons.1 he with rfl | he
      · exact hkj
      · exact lt_trans hkj (hj.1 e he)
    · split
      · rename_i h1 h2
        exact (keysRise_cons k a _).2 ⟨h2 ▸ hj.1, hj.2⟩
      · rename_i h1 h2
        exact (keysRise_cons j b _).2 ⟨keysAbove_setEntry hj.1 (by omega), ih hj.2⟩

/-- Dropping an entry keeps the keys rising. -/
theorem keysRise_dropEntry {k : Nat} {m : List (Nat × α)} (h : keysRise m = true) : keysRise (dropEntry k m) = true := by
  induction m with
  | nil => rfl
  | cons e rest ih =>
    obtain ⟨j, b⟩ := e
    have hj := (keysRise_cons j b rest).1 h
    simp only [dropEntry]
    split
    · exact hj.2
    · exact (keysRise_cons j b _).2 ⟨keysAbove_dropEntry hj.1, ih hj.2⟩

theorem mem_setEntry {k : Nat} {a : α} {m : List (Nat × α)} {e : Nat × α} (h : e ∈ setEntry k a m) :
    e = (k, a) ∨ e ∈ m := by
  induction m with
  | nil => exact .inl (by simpa [setEntry] using h)
  | cons d rest ih =>
    obtain ⟨j, b⟩ := d
    simp only [setEntry] at h
    split at h
    · simpa using h
    · split at h
      · rcases List.mem_cons.1 h with h | h
        · exact .inl h
        · exact .inr (List.mem_cons_of_mem _ h)
      · rcases List.mem_cons.1 h with h | h
        · exact .inr (h ▸ List.mem_cons_self ..)
        · exact (ih h).imp id (List.mem_cons_of_mem _)

theorem mem_dropEntry {k : Nat} {m : List (Nat × α)} {e : Nat × α} (h : e ∈ dropEntry k m) : e ∈ m := by
  induction m with
  | nil => exact h
  | cons d rest ih =>
    obtain ⟨j, b⟩ := d
    simp only [dropEntry] at h
    split at h
    · exact List.mem_cons_of_mem _ h
    · rcases List.mem_cons.1 h with h | h
      · exact h ▸ List.mem_cons_self ..
      · exact List.mem_cons_of_mem _ (ih h)

/-! ## The word store -/

theorem Memory.wf_iff (m : Memory) :
    Memory.wf m = true ↔ keysRise m = true ∧ ∀ e ∈ m, e.2 ≠ Memory.unlisted := by
  simp [Memory.wf, List.all_eq_true]

/-- A write keeps the canonical form. -/
theorem Memory.wf_write {m : Memory} (h : Memory.wf m = true) (i : Nat) (v : Word) :
    Memory.wf (Memory.write m i v) = true := by
  rw [Memory.wf_iff] at h ⊢
  unfold Memory.write
  split
  · exact ⟨keysRise_dropEntry h.1, fun e he => h.2 e (mem_dropEntry he)⟩
  · rename_i hv
    refine ⟨keysRise_setEntry h.1, fun e he => ?_⟩
    rcases mem_setEntry he with rfl | he
    · exact hv
    · exact h.2 e he

/-- A read after a write to the same index gives the word written. -/
theorem Memory.read_write_same {m : Memory} (h : Memory.wf m = true) (i : Nat) (v : Word) :
    Memory.read (Memory.write m i v) i = v := by
  unfold Memory.read Memory.write
  split
  · rename_i hv
    rw [entryAt_dropEntry_same ((Memory.wf_iff m).1 h).1]
    exact hv.symm
  · simp

/-- A write leaves every other index alone. -/
theorem Memory.read_write_other (m : Memory) {i j : Nat} (v : Word) (h : j ≠ i) :
    Memory.read (Memory.write m i v) j = Memory.read m j := by
  unfold Memory.read Memory.write
  split
  · rw [entryAt_dropEntry_other m h]
  · rw [entryAt_setEntry_other v m h]

theorem Memory.wf_reset : Memory.wf State.reset.sliceGroupId = true := rfl

end Sys2Proof.Machine
end

