-- ==== Sys2Proof/Laws/Exec.lean ====
section
/-!
SUPPORT. Everything `exec` can do, once: ignored while halted, raised, reset, or retired with one of the effects of
`Did`. The invariants and the frames over all instructions follow from it without unfolding a meaning.
-/

namespace Sys2Proof.Machine

/-- What a retiring instruction did before it was counted. -/
inductive Did : Instr → State → State → Prop
  /-- Nothing but general registers changed. -/
  | wrote {i s u} (k : RegistersKept i.dests s u) (e : u = { s with x := u.x, written := u.written }) : Did i s u
  /-- Bits were appended, and general registers may have changed. -/
  | emitted {i s u} (bits : Bits) (c : i.codes = true) (k : RegistersKept i.dests s u)
      (e : u = { s.emit bits with x := u.x, written := u.written }) : Did i s u
  | configured {s} (r : ConfReg) (ra : Reg) : Did (.cfgwr r ra) s (s.setConf r (s.reg ra))
  | stored {s} (a : ArrayId) (ra rb : Reg) (h : outsideArray s.params a (s.u rb) = false) :
      Did (.cfgwra a ra rb) s (s.setElement a (s.u rb) (s.reg ra))
  | opened {s} (cfi : Nat) (h0 : cfi ≤ 3) (h1 : (s.conf frameMbsOnlyFlag).toNat ≤ 1) (h2 : (s.conf fieldPicFlag).toNat ≤ 1)
      (h3 : (s.conf picWidthInMbsMinus1).toNat ≤ 65535 ∧ (s.conf picHeightInMapUnitsMinus1).toNat ≤ 65535)
      (h4 : ((s.conf picWidthInMbsMinus1).toNat + 1) * ((s.conf picHeightInMapUnitsMinus1).toNat + 1) < 2 ^ 32)
      (h5 : ¬(s.conf fieldPicFlag = 1 ∧ s.conf frameMbsOnlyFlag = 1))
      (h6 : s.params.overMaxMbs (((s.conf picWidthInMbsMinus1).toNat + 1) * picHeightInMbs s) = false) :
      Did .slicestart s (s.openSlice (latchedGeometry s cfi))
  | began {s} (f : Bool) (ra rb : Reg) (t : MbT) (h1 : s.cur = none) (h2 : s.u ra < s.geo.picSizeInMbs.toNat)
      (h3 : s.addrNotRising (s.u ra) = false) (h4 : f = true → s.geo.mbaffFrameFlag ≠ 0) :
      Did (.mbnew f ra rb) s { s with cur := some (newRecord s.mbCount (s.reg ra) t f) }
  | setField {s} (f : MbField) (ra : Reg) (m m' : MbRecord) (h1 : s.cur = some m) (h2 : m.withField f (s.u ra) = .ok m') :
      Did (.mbset f ra) s { s with cur := some m' }
  | setSymbol {s} (c : Category) (sym : TbSymbol) (ra rb : Reg) (m : MbRecord) (b : Nat) (old : TransformBlock)
      (h1 : s.cur = some m) (h2 : s.blockOperand c rb = .ok b)
      (h3 : m.symbolTarget (c.key b) sym (s.reg ra) = .ok old) (h4 : symbolOutOfRange sym (s.reg ra) = false) :
      Did (.tbset c sym ra rb) s { s with cur := some (m.setBlock (c.key b) (old.withSymbol sym (s.reg ra))) }
  | committed {s} (m : MbRecord) (h : s.cur = some m) (h1 : s.params.atMaxMbs s.mbCount = false) :
      Did .mbcommit s { s with mbstore := s.mbstore ++ [m], cur := none }
  | mapped {s} (mu : List GroupId) (h : mapUnits s = .ok mu) (h1 : s.params.overMaxMbs s.geo.picSizeInMbs.toNat = false) :
      Did .sgmap s (s.withMap (expandMap s mu))
  | coded {s} (c : Category) (ra : Reg) (m : MbRecord) (b : Nat) (tb : TransformBlock) (nC : Int) (bits : Bits)
      (h1 : s.residualOperand c ra = .ok (m, b)) (h2 : m.block (c.key b) = some tb) (h3 : s.context c m b = .ok nC)
      (h4 : tb.code s.params nC (c.maxNumCoeff s.chromaArrayType) = .ok bits) :
      Did (.resblk c ra) s
        { s.emit bits with cur := some (m.setBlock (c.key b) { tb with nC := some (BitVec.ofInt 32 nC) }) }

theorem Did.nothing (i : Instr) (s : State) (h : i.dests = []) : Did i s s :=
  .wrote (by rw [h]; exact registersKept_refl s) rfl

theorem Did.one (i : Instr) (s : State) (rd : Reg) (v : Word) (h : i.dests = [rd]) : Did i s (s.setReg rd v) :=
  .wrote (by rw [h]; exact registersKept_setReg s rd v) rfl

theorem Did.two (i : Instr) (s : State) (q r : Reg) (v w : Word) (h : i.dests = [q, r]) :
    Did i s ((s.setReg q v).setReg r w) :=
  .wrote (by rw [h]; exact (writesOnly_setReg2 s q r v w).1) rfl

theorem Did.three (i : Instr) (s : State) (p q r : Reg) (u v w : Word) (h : i.dests = [p, q, r]) :
    Did i s (((s.setReg p u).setReg q v).setReg r w) :=
  .wrote (by rw [h]; exact (writesOnly_setReg3 s p q r u v w).1) rfl

theorem Did.bits (i : Instr) (s : State) (bits : Bits) (c : i.codes = true) (h : i.dests = []) :
    Did i s (s.emit bits) :=
  .emitted bits c (by rw [h]; exact (appends_emit s bits).1) rfl

theorem Did.bitsOne (i : Instr) (s : State) (bits : Bits) (rd : Reg) (v : Word) (c : i.codes = true)
    (h : i.dests = [rd]) : Did i s ((s.emit bits).setReg rd v) :=
  .emitted bits c (by rw [h]; exact (appends_emit_setReg s bits rd v).1) rfl

/-! ## No test raises the warning class (R402) -/

/-- A test that raises a fatal class, if it raises one. -/
def Fatal {α : Type} (x : Except FaultClass α) : Prop := ∀ f, x = .error f → f ≠ .rangeWarning

theorem fatal_ok {α : Type} (a : α) : Fatal (.ok a : Except FaultClass α) := fun _ h => nomatch h

theorem fatal_error {α : Type} {f : FaultClass} (h : f ≠ .rangeWarning) : Fatal (.error f : Except FaultClass α) :=
  fun _ e => (Except.error.inj e) ▸ h

theorem fatal_raiseIf {bad : Bool} {f : FaultClass} (h : f ≠ .rangeWarning) : Fatal (raiseIf bad f) :=
  fun _ e => (raiseIf_error.1 e).2 ▸ h

theorem fatal_orRaise {α : Type} {o : Option α} {f : FaultClass} (h : f ≠ .rangeWarning) : Fatal (orRaise f o) :=
  fun _ e => (orRaise_error.1 e).2 ▸ h

theorem fatal_bind {α β : Type} {x : Except FaultClass α} {k : α → Except FaultClass β} (h : Fatal x)
    (hk : ∀ a, Fatal (k a)) : Fatal (x >>= k) := by
  intro f e
  rcases bind_error.1 e with e | ⟨a, _, e⟩
  · exact h f e
  · exact hk a f e

theorem fatal_ite {α : Type} {p : Prop} [Decidable p] {x y : Except FaultClass α} (h : Fatal x) (k : Fatal y) :
    Fatal (if p then x else y) := by
  split <;> assumption

theorem fatal_recordOperand (s : State) (r : Reg) : Fatal (s.recordOperand r) := fatal_orRaise (by decide)

theorem fatal_partOperand (s : State) (r : Reg) : Fatal (s.partOperand r) :=
  fatal_bind (fatal_raiseIf (by decide)) fun _ => fatal_ok _

theorem fatal_curOperand (s : State) : Fatal s.curOperand := fatal_orRaise (by decide)

theorem fatal_blockOperand (s : State) (c : Category) (r : Reg) : Fatal (s.blockOperand c r) :=
  fatal_bind (fatal_raiseIf (by decide)) fun _ => fatal_bind (fatal_raiseIf (by decide)) fun _ => fatal_ok _

theorem fatal_typeOperand (s : State) (r : Reg) : Fatal (s.typeOperand r) := by
  refine fatal_bind (fatal_orRaise (by decide)) fun sc => ?_
  split
  · exact fatal_bind (fatal_raiseIf (by decide)) fun _ => fatal_ok _
  · exact fatal_error (by decide)

theorem fatal_chromaFormat (n : Nat) : Fatal (chromaFormat n) := by
  unfold chromaFormat
  split
  · split
    · exact fatal_error (by decide)
    · exact fatal_ok _
  · exact fatal_ok _

theorem fatal_withField (m : MbRecord) (f : MbField) (v : Nat) : Fatal (m.withField f v) := by
  cases f with
  | cbp =>
    exact fatal_bind (fatal_raiseIf (by decide)) fun _ => fatal_bind (fatal_raiseIf (by decide)) fun _ => fatal_ok _
  | subMbType p =>
    simp only [MbRecord.withField]
    split
    · exact fatal_ok _
    · exact fatal_error (by decide)
  | transform8x8 => exact fatal_bind (fatal_raiseIf (by decide)) fun _ => fatal_ok _

theorem fatal_symbolTarget (m : MbRecord) (k : Nat) (sym : TbSymbol) (v : Word) : Fatal (m.symbolTarget k sym v) :=
  fatal_ite (fatal_ok _) (fatal_orRaise (by decide))

theorem fatal_subClass (m : MbRecord) (q : Params) (p : Nat) : Fatal (m.subClass q p) := by
  unfold MbRecord.subClass
  split
  · split
    · exact fatal_ite (fatal_ok _) (fatal_error (by decide))
    · exact fatal_error (by decide)
  · exact fatal_ite (fatal_ok _) (fatal_error (by decide))

theorem fatal_subPartAt (m : MbRecord) (q : Params) (x y : Nat) : Fatal (m.subPartAt q x y) :=
  fatal_ite (fatal_bind (fatal_subClass m q _) fun _ => fatal_ok _) (fatal_ite (fatal_ok _) (fatal_ok _))

theorem fatal_mapUnits (s : State) : Fatal (mapUnits s) := by
  unfold mapUnits
  refine fatal_ite (fatal_ok _) (fatal_ite (fatal_error (by decide)) (fatal_ite (fatal_error (by decide)) ?_))
  split
  all_goals first | exact fatal_ok _ | exact fatal_ite (fatal_error (by decide)) (fatal_ok _)

theorem fatal_neighbour (s : State) (cur : MbRecord) (chroma : Bool) (o : FrameOverride) (x y : Int) :
    Fatal (neighbour s cur chroma o x y) :=
  fatal_bind (fatal_raiseIf (by decide)) fun _ => fatal_bind (fatal_raiseIf (by decide)) fun _ =>
    fatal_bind (fatal_raiseIf (by decide)) fun _ => fatal_ok _

theorem fatal_neighbourCount (s : State) (c : Category) (cur m : MbRecord) (b : Nat) :
    Fatal (s.neighbourCount c cur m b) := by
  refine fatal_bind (fatal_raiseIf (by decide)) fun _ => ?_
  repeat' refine fatal_ite (fatal_ok _) ?_
  split
  · exact fatal_ok _
  · exact fatal_error (by decide)

theorem fatal_contribution (s : State) (c : Category) (cur : MbRecord) (x y : Int) :
    Fatal (s.contribution c cur x y) := by
  refine fatal_bind (fatal_neighbour s cur _ _ x y) fun o => ?_
  cases o with
  | none => exact fatal_ok _
  | some n =>
    exact fatal_bind (fatal_orRaise (by decide)) fun _ => fatal_bind (fatal_neighbourCount s c cur _ _) fun _ =>
      fatal_ok _

theorem fatal_context (s : State) (c : Category) (cur : MbRecord) (b : Nat) : Fatal (s.context c cur b) := by
  cases c
  case chromaDC => exact fatal_ok _
  all_goals
    exact fatal_bind (fatal_contribution s _ cur _ _) fun _ => fatal_bind (fatal_contribution s _ cur _ _) fun _ =>
      fatal_ok _

theorem fatal_residualOperand (s : State) (c : Category) (r : Reg) : Fatal (s.residualOperand c r) :=
  fatal_bind (fatal_curOperand s) fun _ => fatal_bind (fatal_blockOperand s c r) fun _ =>
    fatal_bind (fatal_raiseIf (by decide)) fun _ => fatal_ok _

theorem fatal_runBits (p : Params) (l : List Nat) (z : Nat) : Fatal (runBits p l z) := by
  induction l generalizing z with
  | nil => exact fatal_ok _
  | cons r rest ih =>
    exact fatal_ite (fatal_ok _) (fatal_bind (fatal_orRaise (by decide)) fun _ => fatal_bind (ih _) fun _ => fatal_ok _)

theorem fatal_zeroBits (tb : TransformBlock) (p : Params) (n : Nat) : Fatal (tb.zeroBits p n) :=
  fatal_ite (fatal_bind (fatal_raiseIf (by decide)) fun _ => fatal_bind (fatal_orRaise (by decide)) fun _ =>
    fatal_bind (fatal_runBits _ _ _) fun _ => fatal_ok _) (fatal_ok _)

theorem fatal_code (tb : TransformBlock) (p : Params) (nC : Int) (n : Nat) : Fatal (tb.code p nC n) :=
  fatal_bind (fatal_raiseIf (by decide)) fun _ => fatal_bind (fatal_raiseIf (by decide)) fun _ =>
    fatal_bind (fatal_orRaise (by decide)) fun _ => fatal_bind (fatal_orRaise (by decide)) fun _ =>
      fatal_ite (fatal_ok _) (fatal_bind (fatal_zeroBits tb p n) fun _ => fatal_ok _)

/-! ## The instructions -/

/-- The answer of an instruction that is an ordinary command: its effect, if it has one, is one of `Did`, and the class
it raises, if it does, is fatal. -/
def Ordinary (i : Instr) (s : State) : Prop :=
  ∃ e, exec i s = s.command e ∧ (∀ u, e = .ok u → Did i s u) ∧ Fatal e

theorem ordinary_nop (s : State) : Ordinary .nop s := by
  refine ⟨_, (rfl : execNop s = _), fun u h => ?_, ?_⟩
  · cases h
    exact .nothing _ s rfl
  · exact fatal_ok _

theorem ordinary_ldi (rd : Reg) (imm : Word) (s : State) : Ordinary (.ldi rd imm) s := by
  refine ⟨_, (rfl : execLdi rd imm s = _), fun u h => ?_, ?_⟩
  · cases h
    exact .one _ s rd _ rfl
  · exact fatal_ok _

theorem ordinary_mov (rd ra : Reg) (s : State) : Ordinary (.mov rd ra) s := by
  refine ⟨_, (rfl : execMov rd ra s = _), fun u h => ?_, ?_⟩
  · cases h
    exact .one _ s rd _ rfl
  · exact fatal_ok _

theorem ordinary_cfgwr (r : ConfReg) (ra : Reg) (s : State) : Ordinary (.cfgwr r ra) s := by
  refine ⟨_, (rfl : execCfgwr r ra s = _), fun u h => ?_, ?_⟩
  · cases h
    exact .configured r ra
  · exact fatal_ok _

theorem ordinary_cfgwra (a : ArrayId) (ra rb : Reg) (s : State) : Ordinary (.cfgwra a ra rb) s := by
  refine ⟨_, (rfl : execCfgwra a ra rb s = _), fun u h => ?_, ?_⟩
  · simp only [bind_ok, raiseIf_ok] at h
    obtain ⟨_, h1, h⟩ := h
    cases h
    exact .stored a ra rb h1
  · refine fatal_bind (fatal_raiseIf (by decide)) fun _ => ?_
    exact fatal_ok _

/-- The chroma format `SLICESTART` goes on with is 0 to 3 (R376). -/
theorem chromaFormat_le {n cfi : Nat} (h : chromaFormat n = .ok cfi) : cfi ≤ 3 := by
  unfold chromaFormat at h
  split at h
  · split at h
    · exact nomatch h
    · cases h; decide
  · cases h; omega

theorem ordinary_slicestart (s : State) : Ordinary .slicestart s := by
  refine ⟨_, (rfl : execSlicestart s = _), fun u h => ?_, ?_⟩
  · simp only [bind_ok, raiseIf_ok] at h
    obtain ⟨cfi, h0, _, _, _, h1, _, _, _, h2, _, h5, _, h3, _, h4, h⟩ := h
    cases h
    simp only [decide_eq_false_iff_not, Bool.or_eq_false_iff, not_or, not_lt, not_le] at h1 h2 h3 h4
    exact .opened cfi (chromaFormat_le h0) h1 h2 h3 h4.2 (by simpa using h5) h4.1
  · refine fatal_bind (fatal_chromaFormat _) fun _ => ?_
    refine fatal_bind (fatal_raiseIf (by decide)) fun _ => ?_
    refine fatal_bind (fatal_raiseIf (by decide)) fun _ => ?_
    refine fatal_bind (fatal_raiseIf (by decide)) fun _ => ?_
    refine fatal_bind (fatal_raiseIf (by decide)) fun _ => ?_
    refine fatal_bind (fatal_raiseIf (by decide)) fun _ => ?_
    refine fatal_bind (fatal_raiseIf (by decide)) fun _ => ?_
    refine fatal_bind (fatal_raiseIf (by decide)) fun _ => ?_
    exact fatal_ok _

theorem ordinary_mbnew (fieldCoded : Bool) (ra rb : Reg) (s : State) : Ordinary (.mbnew fieldCoded ra rb) s := by
  refine ⟨_, (rfl : execMbnew fieldCoded ra rb s = _), fun u h => ?_, ?_⟩
  · simp only [bind_ok, raiseIf_ok] at h
    obtain ⟨_, _, _, h1, _, h2, _, h3, t, _, _, h4, _, _, h⟩ := h
    cases h
    refine .began fieldCoded ra rb t (by simpa using h1) (by simpa using h2) h3 ?_
    rintro rfl
    simpa using h4
  · refine fatal_bind (fatal_raiseIf (by decide)) fun _ => ?_
    refine fatal_bind (fatal_raiseIf (by decide)) fun _ => ?_
    refine fatal_bind (fatal_raiseIf (by decide)) fun _ => ?_
    refine fatal_bind (fatal_raiseIf (by decide)) fun _ => ?_
    refine fatal_bind (fatal_typeOperand s rb) fun _ => ?_
    refine fatal_bind (fatal_raiseIf (by decide)) fun _ => ?_
    refine fatal_bind (fatal_raiseIf (by decide)) fun _ => ?_
    exact fatal_ok _

theorem ordinary_mbset (f : MbField) (ra : Reg) (s : State) : Ordinary (.mbset f ra) s := by
  refine ⟨_, (rfl : execMbset f ra s = _), fun u h => ?_, ?_⟩
  · simp only [bind_ok] at h
    obtain ⟨m, h1, m', h2, h⟩ := h
    cases h
    exact .setField f ra m m' (orRaise_ok.1 h1) h2
  · refine fatal_bind (fatal_curOperand s) fun _ => ?_
    refine fatal_bind (fatal_withField _ f _) fun _ => ?_
    exact fatal_ok _

theorem ordinary_tbset (c : Category) (sym : TbSymbol) (ra rb : Reg) (s : State) : Ordinary (.tbset c sym ra rb) s := by
  refine ⟨_, (rfl : execTbset c sym ra rb s = _), fun u h => ?_, ?_⟩
  · simp only [bind_ok, raiseIf_ok] at h
    obtain ⟨m, h1, b, h2, old, h3, _, h4, h⟩ := h
    cases h
    exact .setSymbol c sym ra rb m b old (orRaise_ok.1 h1) h2 h3 h4
  · refine fatal_bind (fatal_curOperand s) fun _ => ?_
    refine fatal_bind (fatal_blockOperand s c rb) fun _ => ?_
    refine fatal_bind (fatal_symbolTarget _ _ sym _) fun _ => ?_
    refine fatal_bind (fatal_raiseIf (by decide)) fun _ => ?_
    exact fatal_ok _

theorem ordinary_mbcommit (s : State) : Ordinary .mbcommit s := by
  refine ⟨_, (rfl : execMbcommit s = _), fun u h => ?_, ?_⟩
  · simp only [bind_ok, raiseIf_ok] at h
    obtain ⟨m, h1, _, h2, h⟩ := h
    cases h
    exact .committed m (orRaise_ok.1 h1) h2
  · refine fatal_bind (fatal_curOperand s) fun _ => ?_
    refine fatal_bind (fatal_raiseIf (by decide)) fun _ => ?_
    exact fatal_ok _

theorem ordinary_expg (signed reversed : Bool) (k : Fin 64) (ra : Reg) (s : State) : Ordinary (.expg signed reversed k ra) s := by
  refine ⟨_, (rfl : execExpg signed reversed k ra s = _), fun u h => ?_, ?_⟩
  · simp only [bind_ok] at h
    obtain ⟨_, _, _, _, _, _, h⟩ := h
    cases h
    exact .bits _ s _ rfl rfl
  · refine fatal_bind (fatal_raiseIf (by decide)) fun _ => ?_
    refine fatal_bind (fatal_raiseIf (by decide)) fun _ => ?_
    refine fatal_bind (fatal_raiseIf (by decide)) fun _ => ?_
    exact fatal_ok _

theorem ordinary_tu (ra rb : Reg) (s : State) : Ordinary (.tu ra rb) s := by
  refine ⟨_, (rfl : execTu ra rb s = _), fun u h => ?_, ?_⟩
  · cases h
    exact .bits _ s _ rfl rfl
  · exact fatal_ok _

theorem ordinary_fl (ra rb : Reg) (s : State) : Ordinary (.fl ra rb) s := by
  refine ⟨_, (rfl : execFl ra rb s = _), fun u h => ?_, ?_⟩
  · cases h
    exact .bits _ s _ rfl rfl
  · exact fatal_ok _

theorem ordinary_mbtype (rd ra : Reg) (s : State) : Ordinary (.mbtype rd ra) s := by
  refine ⟨_, (rfl : execMbtype rd ra s = _), fun u h => ?_, ?_⟩
  · simp only [bind_ok] at h
    obtain ⟨_, _, _, _, h⟩ := h
    cases h
    exact .bitsOne _ s _ rd _ rfl rfl
  · refine fatal_bind (fatal_orRaise (by decide)) fun _ => ?_
    refine fatal_bind (fatal_orRaise (by decide)) fun _ => ?_
    exact fatal_ok _

theorem ordinary_submbtype (ra : Reg) (s : State) : Ordinary (.submbtype ra) s := by
  refine ⟨_, (rfl : execSubmbtype ra s = _), fun u h => ?_, ?_⟩
  · simp only [bind_ok] at h
    obtain ⟨_, _, _, _, h⟩ := h
    cases h
    exact .bits _ s _ rfl rfl
  · refine fatal_bind (fatal_orRaise (by decide)) fun _ => ?_
    refine fatal_bind (fatal_orRaise (by decide)) fun _ => ?_
    exact fatal_ok _

theorem ordinary_cbp (ra : Reg) (s : State) : Ordinary (.cbp ra) s := by
  refine ⟨_, (rfl : execCbp ra s = _), fun u h => ?_, ?_⟩
  · simp only [bind_ok] at h
    obtain ⟨_, _, h⟩ := h
    cases h
    exact .bits _ s _ rfl rfl
  · refine fatal_bind (fatal_raiseIf (by decide)) fun _ => ?_
    exact fatal_ok _

theorem ordinary_mbqpd (ra : Reg) (s : State) : Ordinary (.mbqpd ra) s := by
  refine ⟨_, (rfl : execMbqpd ra s = _), fun u h => ?_, ?_⟩
  · simp only [bind_ok] at h
    obtain ⟨_, _, h⟩ := h
    cases h
    exact .bits _ s _ rfl rfl
  · refine fatal_bind (fatal_raiseIf (by decide)) fun _ => ?_
    exact fatal_ok _

theorem ordinary_calm1 (ra : Reg) (s : State) : Ordinary (.calm1 ra) s := by
  refine ⟨_, (rfl : execCalm1 ra s = _), fun u h => ?_, ?_⟩
  · cases h
    exact .bits _ s _ rfl rfl
  · exact fatal_ok _

theorem ordinary_uegk (signed : Bool) (k : Fin 64) (rd ra rb : Reg) (s : State) : Ordinary (.uegk signed k rd ra rb) s := by
  refine ⟨_, (rfl : execUegk signed k rd ra rb s = _), fun u h => ?_, ?_⟩
  · simp only [bind_ok] at h
    obtain ⟨_, _, _, _, h⟩ := h
    cases h
    exact .bitsOne _ s _ rd _ rfl rfl
  · refine fatal_bind (fatal_raiseIf (by decide)) fun _ => ?_
    refine fatal_bind (fatal_raiseIf (by decide)) fun _ => ?_
    exact fatal_ok _

theorem ordinary_isintra (rd ra : Reg) (s : State) : Ordinary (.isintra rd ra) s := by
  refine ⟨_, (rfl : execIsintra rd ra s = _), fun u h => ?_, ?_⟩
  · simp only [bind_ok] at h
    obtain ⟨_, _, h⟩ := h
    cases h
    exact .one _ s rd _ rfl
  · refine fatal_bind (fatal_recordOperand s ra) fun _ => ?_
    exact fatal_ok _

theorem ordinary_isinter (rd ra : Reg) (s : State) : Ordinary (.isinter rd ra) s := by
  refine ⟨_, (rfl : execIsinter rd ra s = _), fun u h => ?_, ?_⟩
  · simp only [bind_ok] at h
    obtain ⟨_, _, h⟩ := h
    cases h
    exact .one _ s rd _ rfl
  · refine fatal_bind (fatal_recordOperand s ra) fun _ => ?_
    exact fatal_ok _

theorem ordinary_numpart (rd ra : Reg) (s : State) : Ordinary (.numpart rd ra) s := by
  refine ⟨_, (rfl : execNumpart rd ra s = _), fun u h => ?_, ?_⟩
  · simp only [bind_ok] at h
    obtain ⟨_, _, h⟩ := h
    cases h
    exact .one _ s rd _ rfl
  · refine fatal_bind (fatal_recordOperand s ra) fun _ => ?_
    exact fatal_ok _

theorem ordinary_partpred (rd ra rb : Reg) (s : State) : Ordinary (.partpred rd ra rb) s := by
  refine ⟨_, (rfl : execPartpred rd ra rb s = _), fun u h => ?_, ?_⟩
  · simp only [bind_ok] at h
    obtain ⟨_, _, _, _, h⟩ := h
    cases h
    exact .one _ s rd _ rfl
  · refine fatal_bind (fatal_recordOperand s ra) fun _ => ?_
    refine fatal_bind (fatal_partOperand s rb) fun _ => ?_
    exact fatal_ok _

theorem ordinary_partdim (rd ra : Reg) (s : State) : Ordinary (.partdim rd ra) s := by
  refine ⟨_, (rfl : execPartdim rd ra s = _), fun u h => ?_, ?_⟩
  · simp only [bind_ok] at h
    obtain ⟨_, _, h⟩ := h
    cases h
    exact .one _ s rd _ rfl
  · refine fatal_bind (fatal_recordOperand s ra) fun _ => ?_
    exact fatal_ok _

theorem ordinary_numsubpart (rd ra rb : Reg) (s : State) : Ordinary (.numsubpart rd ra rb) s := by
  refine ⟨_, (rfl : execNumsubpart rd ra rb s = _), fun u h => ?_, ?_⟩
  · simp only [bind_ok] at h
    obtain ⟨_, _, _, _, _, _, h⟩ := h
    cases h
    exact .one _ s rd _ rfl
  · refine fatal_bind (fatal_recordOperand s ra) fun _ => ?_
    refine fatal_bind (fatal_partOperand s rb) fun _ => ?_
    refine fatal_bind (fatal_subClass _ _ _) fun _ => ?_
    exact fatal_ok _

theorem ordinary_subpartpred (rd ra rb : Reg) (s : State) : Ordinary (.subpartpred rd ra rb) s := by
  refine ⟨_, (rfl : execSubpartpred rd ra rb s = _), fun u h => ?_, ?_⟩
  · simp only [bind_ok] at h
    obtain ⟨_, _, _, _, _, _, h⟩ := h
    cases h
    exact .one _ s rd _ rfl
  · refine fatal_bind (fatal_recordOperand s ra) fun _ => ?_
    refine fatal_bind (fatal_partOperand s rb) fun _ => ?_
    refine fatal_bind (fatal_subClass _ _ _) fun _ => ?_
    exact fatal_ok _

theorem ordinary_subpartdim (rd ra rb : Reg) (s : State) : Ordinary (.subpartdim rd ra rb) s := by
  refine ⟨_, (rfl : execSubpartdim rd ra rb s = _), fun u h => ?_, ?_⟩
  · simp only [bind_ok] at h
    obtain ⟨_, _, _, _, _, _, h⟩ := h
    cases h
    exact .one _ s rd _ rfl
  · refine fatal_bind (fatal_recordOperand s ra) fun _ => ?_
    refine fatal_bind (fatal_partOperand s rb) fun _ => ?_
    refine fatal_bind (fatal_subClass _ _ _) fun _ => ?_
    exact fatal_ok _

theorem ordinary_sgmap (s : State) : Ordinary .sgmap s := by
  refine ⟨_, (rfl : execSgmap s = _), fun u h => ?_, ?_⟩
  · simp only [bind_ok, raiseIf_ok] at h
    obtain ⟨_, _, _, h2, _, _, _, _, mu, h1, h⟩ := h
    cases h
    exact .mapped mu h1 h2
  · refine fatal_bind (fatal_raiseIf (by decide)) fun _ => ?_
    refine fatal_bind (fatal_raiseIf (by decide)) fun _ => ?_
    refine fatal_bind (fatal_raiseIf (by decide)) fun _ => ?_
    refine fatal_bind (fatal_raiseIf (by decide)) fun _ => ?_
    refine fatal_bind (fatal_mapUnits s) fun _ => ?_
    exact fatal_ok _

theorem ordinary_maprd (rd ra : Reg) (s : State) : Ordinary (.maprd rd ra) s := by
  refine ⟨_, (rfl : execMaprd rd ra s = _), fun u h => ?_, ?_⟩
  · simp only [bind_ok] at h
    obtain ⟨_, _, _, _, _, _, h⟩ := h
    cases h
    exact .one _ s rd _ rfl
  · refine fatal_bind (fatal_orRaise (by decide)) fun _ => ?_
    refine fatal_bind (fatal_raiseIf (by decide)) fun _ => ?_
    refine fatal_bind (fatal_orRaise (by decide)) fun _ => ?_
    exact fatal_ok _

theorem ordinary_neigh (chroma : Bool) (o : FrameOverride) (rd ra rb rc : Reg) (s : State) : Ordinary (.neigh chroma o rd ra rb rc) s := by
  refine ⟨_, (rfl : execNeigh chroma o rd ra rb rc s = _), fun u h => ?_, ?_⟩
  · simp only [bind_ok] at h
    obtain ⟨_, _, _, _, n, _, h⟩ := h
    cases h
    cases n <;> exact .three _ s _ _ _ _ _ _ rfl
  · refine fatal_bind (fatal_raiseIf (by decide)) fun _ => ?_
    refine fatal_bind (fatal_recordOperand s ra) fun _ => ?_
    refine fatal_bind (fatal_neighbour s _ chroma o _ _) fun _ => ?_
    exact fatal_ok _

theorem ordinary_blk2xy (kind : BlkKind) (rd ra : Reg) (s : State) : Ordinary (.blk2xy kind rd ra) s := by
  refine ⟨_, (rfl : execBlk2xy kind rd ra s = _), fun u h => ?_, ?_⟩
  · simp only [bind_ok] at h
    obtain ⟨_, _, _, _, _, _, h⟩ := h
    cases h
    exact .two _ s _ _ _ _ rfl
  · refine fatal_bind (fatal_raiseIf (by decide)) fun _ => ?_
    refine fatal_bind (fatal_raiseIf (by decide)) fun _ => ?_
    refine fatal_bind (fatal_raiseIf (by decide)) fun _ => ?_
    exact fatal_ok _

theorem ordinary_xy2blk (kind : BlkKind) (rd ra rb : Reg) (s : State) : Ordinary (.xy2blk kind rd ra rb) s := by
  refine ⟨_, (rfl : execXy2blk kind rd ra rb s = _), fun u h => ?_, ?_⟩
  · simp only [bind_ok] at h
    obtain ⟨_, _, _, _, h⟩ := h
    cases h
    exact .one _ s rd _ rfl
  · refine fatal_bind (fatal_raiseIf (by decide)) fun _ => ?_
    refine fatal_bind (fatal_raiseIf (by decide)) fun _ => ?_
    exact fatal_ok _

theorem ordinary_xy2part (rd ra rb rc : Reg) (s : State) : Ordinary (.xy2part rd ra rb rc) s := by
  refine ⟨_, (rfl : execXy2part rd ra rb rc s = _), fun u h => ?_, ?_⟩
  · simp only [bind_ok] at h
    obtain ⟨_, _, _, _, _, _, _, _, h⟩ := h
    cases h
    exact .two _ s _ _ _ _ rfl
  · refine fatal_bind (fatal_raiseIf (by decide)) fun _ => ?_
    refine fatal_bind (fatal_recordOperand s ra) fun _ => ?_
    refine fatal_bind (fatal_raiseIf (by decide)) fun _ => ?_
    refine fatal_bind (fatal_subPartAt _ _ _ _) fun _ => ?_
    exact fatal_ok _

theorem ordinary_nc (c : Category) (rd ra : Reg) (s : State) : Ordinary (.nc c rd ra) s := by
  refine ⟨_, (rfl : execNc c rd ra s = _), fun u h => ?_, ?_⟩
  · simp only [bind_ok] at h
    obtain ⟨_, _, _, _, h⟩ := h
    cases h
    exact .one _ s rd _ rfl
  · refine fatal_bind (fatal_residualOperand s c ra) fun _ => ?_
    refine fatal_bind (fatal_context s c _ _) fun _ => ?_
    exact fatal_ok _

theorem ordinary_coefftoken (ra rb rc : Reg) (s : State) : Ordinary (.coefftoken ra rb rc) s := by
  refine ⟨_, (rfl : execCoefftoken ra rb rc s = _), fun u h => ?_, ?_⟩
  · simp only [bind_ok] at h
    obtain ⟨_, _, _, _, h⟩ := h
    cases h
    exact .bits _ s _ rfl rfl
  · refine fatal_bind (fatal_orRaise (by decide)) fun _ => ?_
    refine fatal_bind (fatal_orRaise (by decide)) fun _ => ?_
    exact fatal_ok _

theorem ordinary_levelpfx (ra : Reg) (s : State) : Ordinary (.levelpfx ra) s := by
  refine ⟨_, (rfl : execLevelpfx ra s = _), fun u h => ?_, ?_⟩
  · cases h
    exact .bits _ s _ rfl rfl
  · exact fatal_ok _

theorem ordinary_totalzeros (c : CoeffClass) (ra rb : Reg) (s : State) : Ordinary (.totalzeros c ra rb) s := by
  refine ⟨_, (rfl : execTotalzeros c ra rb s = _), fun u h => ?_, ?_⟩
  · simp only [bind_ok] at h
    obtain ⟨_, _, h⟩ := h
    cases h
    exact .bits _ s _ rfl rfl
  · refine fatal_bind (fatal_orRaise (by decide)) fun _ => ?_
    exact fatal_ok _

theorem ordinary_runbefore (ra rb : Reg) (s : State) : Ordinary (.runbefore ra rb) s := by
  refine ⟨_, (rfl : execRunbefore ra rb s = _), fun u h => ?_, ?_⟩
  · simp only [bind_ok] at h
    obtain ⟨_, _, h⟩ := h
    cases h
    exact .bits _ s _ rfl rfl
  · refine fatal_bind (fatal_orRaise (by decide)) fun _ => ?_
    exact fatal_ok _

theorem ordinary_resblk (c : Category) (ra : Reg) (s : State) : Ordinary (.resblk c ra) s := by
  refine ⟨_, (rfl : execResblk c ra s = _), fun u h => ?_, ?_⟩
  · simp only [bind_ok, orRaise_ok] at h
    obtain ⟨op, h1, tb, h2, nC, h3, bits, h4, h⟩ := h
    cases h
    exact .coded c ra op.1 op.2 tb nC bits h1 h2 h3 h4
  · refine fatal_bind (fatal_residualOperand s c ra) fun _ => ?_
    refine fatal_bind (fatal_orRaise (by decide)) fun _ => ?_
    refine fatal_bind (fatal_context s c _ _) fun _ => ?_
    refine fatal_bind (fatal_code _ _ _ _) fun _ => ?_
    exact fatal_ok _

/-- Everything an instruction can do: `CFGRD` and `STATRD` write a register always; `SRESET` resets always; every other
one is an ordinary command. -/
theorem exec_cases (i : Instr) (s : State) :
    (∃ rd v, ((∃ r, i = .cfgrd r rd ∧ v = s.readCsr r) ∨ (i = .statrd rd ∧ v = s.status)) ∧
      exec i s = .next (s.setReg rd v).retire) ∨
    (i = .sreset ∧ exec i s = .next s.softReset) ∨ Ordinary i s := by
  cases i
  case cfgrd r rd => exact .inl ⟨rd, _, .inl ⟨r, rfl, rfl⟩, rfl⟩
  case statrd rd => exact .inl ⟨rd, _, .inr ⟨rfl, rfl⟩, rfl⟩
  case sreset => exact .inr (.inl ⟨rfl, rfl⟩)
  case nop => exact .inr (.inr (ordinary_nop s))
  case ldi rd imm => exact .inr (.inr (ordinary_ldi rd imm s))
  case mov rd ra => exact .inr (.inr (ordinary_mov rd ra s))
  case cfgwr r ra => exact .inr (.inr (ordinary_cfgwr r ra s))
  case cfgwra a ra rb => exact .inr (.inr (ordinary_cfgwra a ra rb s))
  case slicestart => exact .inr (.inr (ordinary_slicestart s))
  case mbnew fieldCoded ra rb => exact .inr (.inr (ordinary_mbnew fieldCoded ra rb s))
  case mbset f ra => exact .inr (.inr (ordinary_mbset f ra s))
  case tbset c sym ra rb => exact .inr (.inr (ordinary_tbset c sym ra rb s))
  case mbcommit => exact .inr (.inr (ordinary_mbcommit s))
  case expg signed reversed k ra => exact .inr (.inr (ordinary_expg signed reversed k ra s))
  case tu ra rb => exact .inr (.inr (ordinary_tu ra rb s))
  case fl ra rb => exact .inr (.inr (ordinary_fl ra rb s))
  case mbtype rd ra => exact .inr (.inr (ordinary_mbtype rd ra s))
  case submbtype ra => exact .inr (.inr (ordinary_submbtype ra s))
  case cbp ra => exact .inr (.inr (ordinary_cbp ra s))
  case mbqpd ra => exact .inr (.inr (ordinary_mbqpd ra s))
  case calm1 ra => exact .inr (.inr (ordinary_calm1 ra s))
  case uegk signed k rd ra rb => exact .inr (.inr (ordinary_uegk signed k rd ra rb s))
  case isintra rd ra => exact .inr (.inr (ordinary_isintra rd ra s))
  case isinter rd ra => exact .inr (.inr (ordinary_isinter rd ra s))
  case numpart rd ra => exact .inr (.inr (ordinary_numpart rd ra s))
  case partpred rd ra rb => exact .inr (.inr (ordinary_partpred rd ra rb s))
  case partdim rd ra => exact .inr (.inr (ordinary_partdim rd ra s))
  case numsubpart rd ra rb => exact .inr (.inr (ordinary_numsubpart rd ra rb s))
  case subpartpred rd ra rb => exact .inr (.inr (ordinary_subpartpred rd ra rb s))
  case subpartdim rd ra rb => exact .inr (.inr (ordinary_subpartdim rd ra rb s))
  case sgmap => exact .inr (.inr (ordinary_sgmap s))
  case maprd rd ra => exact .inr (.inr (ordinary_maprd rd ra s))
  case neigh chroma o rd ra rb rc => exact .inr (.inr (ordinary_neigh chroma o rd ra rb rc s))
  case blk2xy kind rd ra => exact .inr (.inr (ordinary_blk2xy kind rd ra s))
  case xy2blk kind rd ra rb => exact .inr (.inr (ordinary_xy2blk kind rd ra rb s))
  case xy2part rd ra rb rc => exact .inr (.inr (ordinary_xy2part rd ra rb rc s))
  case nc c rd ra => exact .inr (.inr (ordinary_nc c rd ra s))
  case coefftoken ra rb rc => exact .inr (.inr (ordinary_coefftoken ra rb rc s))
  case levelpfx ra => exact .inr (.inr (ordinary_levelpfx ra s))
  case totalzeros c ra rb => exact .inr (.inr (ordinary_totalzeros c ra rb s))
  case runbefore ra rb => exact .inr (.inr (ordinary_runbefore ra rb s))
  case resblk c ra => exact .inr (.inr (ordinary_resblk c ra s))

/-- The next states of an instruction: it was ignored, raised a fatal class, reset, or retired with what it did. -/
theorem exec_next {i : Instr} {s t : State} (h : exec i s = .next t) :
    (s.halted = true ∧ t = s) ∨ (s.halted = false ∧ ∃ f, f ≠ FaultClass.rangeWarning ∧ t = s.raise f) ∨
    (i = .sreset ∧ t = s.softReset) ∨ ∃ u, Did i s u ∧ t = u.retire := by
  rcases exec_cases i s with ⟨rd, v, hi, he⟩ | ⟨hi, he⟩ | ⟨e, he, hok, hf⟩
  · rw [he] at h
    injection h with h
    refine .inr (.inr (.inr ⟨_, .one i s rd v ?_, h.symm⟩))
    rcases hi with ⟨r, rfl, _⟩ | ⟨rfl, _⟩ <;> rfl
  · rw [he] at h
    injection h with h
    exact .inr (.inr (.inl ⟨hi, h.symm⟩))
  · rw [he] at h
    rcases command_cases h with ⟨h1, h2⟩ | ⟨_, u, h1, h2⟩ | ⟨h0, f, h1, h2⟩
    · exact .inl ⟨h1, h2⟩
    · exact .inr (.inr (.inr ⟨u, hok u h1, h2⟩))
    · exact .inr (.inl ⟨h0, f, hf f h1, h2⟩)

end Sys2Proof.Machine
end

