-- ==== Sys2Proof/Laws/PerInstr.lean ====
section
/-!
SUPPORT. Statements made per instruction: the operation code of its word (R84), as spec/opcode_table.json has it.
-/

namespace Sys2Proof

/-- The operation code of R84. -/
def Instr.opcode : Instr → BitVec 8
  | .nop => 0x00
  | .ldi _ _ => 0x01
  | .mov _ _ => 0x02
  | .cfgwr _ _ => 0x03
  | .cfgrd _ _ => 0x04
  | .cfgwra _ _ _ => 0x05
  | .slicestart => 0x06
  | .mbnew _ _ _ => 0x07
  | .mbset _ _ => 0x08
  | .tbset _ _ _ _ => 0x09
  | .mbcommit => 0x0A
  | .statrd _ => 0x0B
  | .sreset => 0x0C
  | .expg _ _ _ _ => 0x10
  | .tu _ _ => 0x11
  | .fl _ _ => 0x12
  | .mbtype _ _ => 0x13
  | .submbtype _ => 0x14
  | .cbp _ => 0x15
  | .mbqpd _ => 0x16
  | .calm1 _ => 0x17
  | .uegk _ _ _ _ _ => 0x18
  | .isintra _ _ => 0x20
  | .isinter _ _ => 0x21
  | .numpart _ _ => 0x22
  | .partpred _ _ _ => 0x23
  | .partdim _ _ => 0x24
  | .numsubpart _ _ _ => 0x25
  | .subpartpred _ _ _ => 0x26
  | .subpartdim _ _ _ => 0x27
  | .sgmap => 0x30
  | .maprd _ _ => 0x31
  | .neigh _ _ _ _ _ _ => 0x40
  | .blk2xy _ _ _ => 0x41
  | .xy2blk _ _ _ _ => 0x42
  | .xy2part _ _ _ _ => 0x43
  | .nc _ _ _ => 0x50
  | .coefftoken _ _ _ => 0x51
  | .levelpfx _ => 0x52
  | .totalzeros _ _ _ => 0x53
  | .runbefore _ _ => 0x54
  | .resblk _ _ => 0x55

namespace Laws.Opcode

/-- Bits 63:56 of the word of `i` are its operation code (R80, R84). -/
def Statement (i : Instr) : Prop := (encode i).extractLsb' 56 8 = i.opcode

/-- The operation code field of a word made of fields. -/
theorem of_fields (i : Instr) (h : i.fields.op = i.opcode) : Statement i := by
  have h' := congrArg Fields.op (Fields.ofWord_toWord i.fields)
  exact h'.trans h

theorem nop : Statement (.nop) := of_fields _ rfl
theorem ldi (rd : Reg) (imm : Word) : Statement (.ldi rd imm) := of_fields _ rfl
theorem mov (rd ra : Reg) : Statement (.mov rd ra) := of_fields _ rfl
theorem cfgwr (r : ConfReg) (ra : Reg) : Statement (.cfgwr r ra) := of_fields _ rfl
theorem cfgrd (r : ReadReg) (rd : Reg) : Statement (.cfgrd r rd) := of_fields _ rfl
theorem cfgwra (a : ArrayId) (ra rb : Reg) : Statement (.cfgwra a ra rb) := of_fields _ rfl
theorem slicestart : Statement (.slicestart) := of_fields _ rfl
theorem mbnew (fieldCoded : Bool) (ra rb : Reg) : Statement (.mbnew fieldCoded ra rb) := of_fields _ rfl
theorem mbset (f : MbField) (ra : Reg) : Statement (.mbset f ra) := of_fields _ rfl
theorem tbset (c : Category) (sym : TbSymbol) (ra rb : Reg) : Statement (.tbset c sym ra rb) := of_fields _ rfl
theorem mbcommit : Statement (.mbcommit) := of_fields _ rfl
theorem statrd (rd : Reg) : Statement (.statrd rd) := of_fields _ rfl
theorem sreset : Statement (.sreset) := of_fields _ rfl
theorem expg (signed reversed : Bool) (k : Fin 64) (ra : Reg) : Statement (.expg signed reversed k ra) := of_fields _ rfl
theorem tu (ra rb : Reg) : Statement (.tu ra rb) := of_fields _ rfl
theorem fl (ra rb : Reg) : Statement (.fl ra rb) := of_fields _ rfl
theorem mbtype (rd ra : Reg) : Statement (.mbtype rd ra) := of_fields _ rfl
theorem submbtype (ra : Reg) : Statement (.submbtype ra) := of_fields _ rfl
theorem cbp (ra : Reg) : Statement (.cbp ra) := of_fields _ rfl
theorem mbqpd (ra : Reg) : Statement (.mbqpd ra) := of_fields _ rfl
theorem calm1 (ra : Reg) : Statement (.calm1 ra) := of_fields _ rfl
theorem uegk (signed : Bool) (k : Fin 64) (rd ra rb : Reg) : Statement (.uegk signed k rd ra rb) := of_fields _ rfl
theorem isintra (rd ra : Reg) : Statement (.isintra rd ra) := of_fields _ rfl
theorem isinter (rd ra : Reg) : Statement (.isinter rd ra) := of_fields _ rfl
theorem numpart (rd ra : Reg) : Statement (.numpart rd ra) := of_fields _ rfl
theorem partpred (rd ra rb : Reg) : Statement (.partpred rd ra rb) := of_fields _ rfl
theorem partdim (rd ra : Reg) : Statement (.partdim rd ra) := of_fields _ rfl
theorem numsubpart (rd ra rb : Reg) : Statement (.numsubpart rd ra rb) := of_fields _ rfl
theorem subpartpred (rd ra rb : Reg) : Statement (.subpartpred rd ra rb) := of_fields _ rfl
theorem subpartdim (rd ra rb : Reg) : Statement (.subpartdim rd ra rb) := of_fields _ rfl
theorem sgmap : Statement (.sgmap) := of_fields _ rfl
theorem maprd (rd ra : Reg) : Statement (.maprd rd ra) := of_fields _ rfl
theorem neigh (chroma : Bool) (o : FrameOverride) (rd ra rb rc : Reg) : Statement (.neigh chroma o rd ra rb rc) := of_fields _ rfl
theorem blk2xy (kind : BlkKind) (rd ra : Reg) : Statement (.blk2xy kind rd ra) := of_fields _ rfl
theorem xy2blk (kind : BlkKind) (rd ra rb : Reg) : Statement (.xy2blk kind rd ra rb) := of_fields _ rfl
theorem xy2part (rd ra rb rc : Reg) : Statement (.xy2part rd ra rb rc) := of_fields _ rfl
theorem nc (c : Category) (rd ra : Reg) : Statement (.nc c rd ra) := of_fields _ rfl
theorem coefftoken (ra rb rc : Reg) : Statement (.coefftoken ra rb rc) := of_fields _ rfl
theorem levelpfx (ra : Reg) : Statement (.levelpfx ra) := of_fields _ rfl
theorem totalzeros (c : CoeffClass) (ra rb : Reg) : Statement (.totalzeros c ra rb) := of_fields _ rfl
theorem runbefore (ra rb : Reg) : Statement (.runbefore ra rb) := of_fields _ rfl
theorem resblk (c : Category) (ra : Reg) : Statement (.resblk c ra) := of_fields _ rfl

end Laws.Opcode

end Sys2Proof
end

