-- ==== Sys2Proof/Tests/Slice0.lean ====
section
/-!
SUPPORT. Tests by single steps, with results taken from the spec's rules and its vectors (95_test_vectors.md,
96_test_vectors_derived.md), and for every statement with hypotheses a state that meets them.
-/

namespace Sys2Proof.Tests

open Sys2Proof.Machine

/-! ## Helpers -/

/-- The next state of an answer. -/
def after : Answer → State
  | .next t => t
  | .fault _ => State.reset
  | .refused _ => State.reset

/-- The state a command leaves. -/
def ran (i : Instr) (s : State) : State := after (exec i s)

/-- A state with values in general registers. -/
def loaded (s : State) (l : List (Reg × Word)) : State := l.foldl (fun t e => t.setReg e.1 e.2) s

/-- The reset state with values in `x1`, `x2`, `x3`. -/
def regs (a b c : Word) : State := loaded State.reset [(1, a), (2, b), (3, c)]

/-- The reset state with configuration registers set. -/
def configured (l : List (ConfReg × Word)) : State := l.foldl (fun t e => t.setConf e.1 e.2) State.reset

/-- A state whose `MAX_MBS` is `n`. -/
def capped (n : Nat) (s : State) : State := { s with params := { s.params with maxMbs := some n } }

/-- The configuration of the `SLICESTART` example of R376, with a slice type and more settings. -/
def settings (slice : Word) (l : List (ConfReg × Word)) : State :=
  configured ([(chromaFormatIdc, 1), (frameMbsOnlyFlag, 1), (picWidthInMbsMinus1, 3), (picHeightInMapUnitsMinus1, 2),
    (sliceType, slice)] ++ l)

/-- The geometry that example latches: a picture of 4 x 3 macroblocks. -/
def geometry : Geometry :=
  { picWidthInMbs := 4, picHeightInMapUnits := 3, picSizeInMapUnits := 12, picHeightInMbs := 3, picSizeInMbs := 12,
    chromaArrayType := 1, mbWidthC := 8, mbHeightC := 8, mbaffFrameFlag := 0, mapUnitsInSliceGroup0 := 0 }

/-- A slice of that picture begun. -/
def picture (slice : Word) (l : List (ConfReg × Word)) : State := { settings slice l with geo := geometry }

/-- That slice with records committed at addresses, of one type, and `CUR` at an address. -/
def slice (addrs : List Nat) (cur : MbRecord) (t : MbT) : State :=
  { picture 7 [] with
    mbstore := addrs.zipIdx.map fun e => newRecord e.2 (BitVec.ofNat 32 e.1) t false
    cur := some cur }

/-- `CUR` of a type, alone in the slice. -/
def alone (t : MbT) : State := slice [] (newRecord 0 0 t false) 0

/-- The block of the worked example R289. -/
def exampleBlock : TransformBlock :=
  { freshBlock 5 with
    trailingOnes := 3, t1sign := #v[false, true, true]
    levelPrefix := (Vector.replicate 16 0).set 4 2, levelSuffixSize := (Vector.replicate 16 0).set 4 1
    totalZeros := 3, runBefore := (Vector.replicate 15 0).set 0 1 |>.set 3 1 }

/-- The macroblock of program P3: `I_NxN` at address 0, `cbp = 15`, block 0 that of R289. -/
def exampleMb : MbRecord := { (newRecord 0 0 0 false).setBlock 32 exampleBlock with cbp := 15 }

/-- The state of program P3 before its first `RESBLK`, with `x0 = 0` and `x1 = 1`. -/
def residual : State := loaded (slice [] exampleMb 0) [(0, 0), (1, 1)]

/-! ## Decoding (R80 to R85): every operation, by a word written out from its encoding -/

theorem test_decode_system :
    decode 0x0000000000000000 = .ok .nop ∧ decode 0x01500000FFFFFFFF = .ok (.ldi 5 0xFFFFFFFF) ∧
    decode 0x0212000000000000 = .ok (.mov 1 2) ∧ decode 0x0301000C00000000 = .ok (.cfgwr sliceType 1) ∧
    decode 0x04B0008300000000 = .ok (.cfgrd .outLenLow 11) ∧
    decode 0x0501200300000000 = .ok (.cfgwra .sliceGroupId 1 2) ∧ decode 0x0600000000000000 = .ok .slicestart := by
  decide

theorem test_decode_records :
    decode 0x0701200100000000 = .ok (.mbnew true 1 2) ∧ decode 0x0801000400000000 = .ok (.mbset (.subMbType 3) 1) ∧
    decode 0x0901201A00000E06 = .ok (.tbset (.chromaAC .cr) (.runBefore 14) 1 2) ∧
    decode 0x0900000200010404 = .ok (.tbset .luma4x4 (.levelSuffix 4 1) 0 0) ∧
    decode 0x0A00000000000000 = .ok .mbcommit ∧ decode 0x0B30000000000000 = .ok (.statrd 3) ∧
    decode 0x0C00000000000000 = .ok .sreset := by decide

theorem test_decode_coder :
    decode 0x1003000900000000 = .ok (.expg true false 2 3) ∧ decode 0x100F000200000000 = .ok (.expg false true 0 15) ∧
    decode 0x1105600000000000 = .ok (.tu 5 6) ∧ decode 0x1205600000000000 = .ok (.fl 5 6) ∧
    decode 0x1343000000000000 = .ok (.mbtype 4 3) ∧ decode 0x1403000000000000 = .ok (.submbtype 3) := by decide

theorem test_decode_binarizers :
    decode 0x1508000000000000 = .ok (.cbp 8) ∧ decode 0x1609000000000000 = .ok (.mbqpd 9) ∧
    decode 0x170A000000000000 = .ok (.calm1 10) ∧ decode 0x1812300D00000000 = .ok (.uegk true 3 1 2 3) := by decide

theorem test_decode_classification :
    decode 0x2012000000000000 = .ok (.isintra 1 2) ∧ decode 0x2112000000000000 = .ok (.isinter 1 2) ∧
    decode 0x2212000000000000 = .ok (.numpart 1 2) ∧ decode 0x2312300000000000 = .ok (.partpred 1 2 3) ∧
    decode 0x2412000000000000 = .ok (.partdim 1 2) ∧ decode 0x2512300000000000 = .ok (.numsubpart 1 2 3) ∧
    decode 0x2612300000000000 = .ok (.subpartpred 1 2 3) ∧ decode 0x2712300000000000 = .ok (.subpartdim 1 2 3) := by
  decide

theorem test_decode_map_and_neighbour :
    decode 0x3000000000000000 = .ok .sgmap ∧ decode 0x3120000000000000 = .ok (.maprd 2 0) ∧
    decode 0x40D0120500000000 = .ok (.neigh true .field 13 0 1 2) ∧
    decode 0x4086700000000000 = .ok (.neigh false .none 8 6 7 0) ∧
    decode 0x41E1000200000000 = .ok (.blk2xy .chroma4x4 14 1) ∧ decode 0x4212300100000000 = .ok (.xy2blk .luma8x8 1 2 3) ∧
    decode 0x43E1230000000000 = .ok (.xy2part 14 1 2 3) := by decide

theorem test_decode_residual :
    decode 0x5042000200000000 = .ok (.nc .luma4x4 4 2) ∧ decode 0x5101230000000000 = .ok (.coefftoken 1 2 3) ∧
    decode 0x5201000000000000 = .ok (.levelpfx 1) ∧ decode 0x5301200100000000 = .ok (.totalzeros .max8 1 2) ∧
    decode 0x5401200000000000 = .ok (.runbefore 1 2) ∧ decode 0x5500001900000000 = .ok (.resblk (.chromaDC .cr) 0) := by
  decide

/-- A word that does not decode. -/
abbrev illegal (w : CommandWord) : Prop := (decode w).toOption = none

/-- Illegal words of 96_test_vectors_derived.md 2.1: reserved operations and must-be-zero fields. -/
theorem test_decode_illegal_fields :
    illegal 0x0D00000000000000 ∧ illegal 0xFF00000000000000 ∧ illegal 0x1 ∧ illegal 0x1003000900000001 ∧
    illegal 0x1013000000000000 := by decide

/-- 2.1: results past `x15`, reserved `fn` values, categories and registers. -/
theorem test_decode_illegal_operands :
    illegal 0x40E0000000000000 ∧ illegal 0x4000000200000000 ∧ illegal 0x5500000B00000000 ∧
    illegal 0x5500001200000000 ∧ illegal 0x0301001200000000 ∧ illegal 0x0301004000000000 := by decide

/-- 2.1: a register that is no `CFGRD` register, reserved symbols, a bit set where the symbol takes none. -/
theorem test_decode_illegal_symbols :
    illegal 0x0410008200000000 ∧ illegal 0x0901200200000010 ∧ illegal 0x0901200200000007 ∧
    illegal 0x0901200200000100 ∧ illegal 0x1803200200000000 := by decide

/-- The bit numbering of the opcode table is that of R80. -/
theorem test_decodeTableWord :
    decodeTableWord 64 0x0150000000000007 = some (.ldi 5 7) ∧ decodeTableWord 64 0x0D00000000000000 = none := by decide

/-- R83: a result must not run past `x15`. -/
theorem test_wellFormed :
    (Instr.neigh false .none 13 0 0 0).wellFormed = true ∧ (Instr.neigh false .none 14 0 0 0).wellFormed = false ∧
    (Instr.blk2xy .luma4x4 14 0).wellFormed = true ∧ (Instr.blk2xy .luma4x4 15 0).wellFormed = false ∧
    (Instr.xy2part 14 0 0 0).wellFormed = true ∧ (Instr.xy2part 15 0 0 0).wellFormed = false := by decide

/-! ## The machine -/

/-- R404 and 96_test_vectors_derived.md 2.1: `STATUS = 0x00000521`. -/
theorem test_illegal_word_status : (after (step (State.reset.withFetchWord 64 0x0D00000000000000))).status = 0x521 := by
  decide

/-- `withFetchWord` makes the next step run the word. -/
theorem test_step_ldi : (after (step (State.reset.withFetchWord 64 0x0150000000000007))).reg 5 = 7 := by decide

/-- R432: with no command the block waits. -/
theorem test_step_idle : step State.reset = .next State.reset := rfl

/-- R405: a halted block ignores `LDI` and still reads `STATUS`. -/
theorem test_halted :
    let s := { State.reset with status := 0x641 }
    ran (.ldi 1 5) s = s ∧ (ran (.statrd 1) s).reg 1 = 0x641 ∧ (ran (.statrd 1) s).cmdCnt = 1 := by decide

/-! ## System, configuration and record operations -/

theorem test_nop : ran .nop State.reset = { State.reset with cmdCnt := 1 } := by decide

theorem test_ldi : (ran (.ldi 5 0xFFFFFFFF) State.reset).s 5 = -1 := by decide

theorem test_mov : (ran (.mov 4 2) (regs 1 9 3)).reg 4 = 9 := by decide

theorem test_cfgwr : (ran (.cfgwr sliceType 1) (regs 7 0 0)).conf sliceType = 7 := by decide

/-- R374: `CMDCNT` is read as the count before the command; R50: `OUTLEN` in two halves. -/
theorem test_cfgrd :
    let s := { State.reset with cmdCnt := 3, outLen := 0x500000026 }
    (ran (.cfgrd .cmdCnt 1) s).reg 1 = 3 ∧ (ran (.cfgrd .outLenLow 1) s).reg 1 = 38 ∧
    (ran (.cfgrd .outLenHigh 1) s).reg 1 = 5 := by decide

theorem test_cfgwra : (ran (.cfgwra .runLengthMinus1 1 2) (regs 9 7 0)).element .runLengthMinus1 7 = 9 := by decide

theorem test_cfgwra_index : (ran (.cfgwra .bottomRight 1 2) (regs 9 8 0)).status = 0x641 := by decide

/-- The example of R376. -/
theorem test_slicestart : (ran .slicestart (settings 7 [])).geo = geometry := by decide

theorem test_slicestart_separate : (ran .slicestart (settings 7 [(separateColourPlaneFlag, 1)])).status = 0x103 := by
  decide

/-- The example of R377; an `I_16x16` type fixes the pattern. -/
theorem test_mbnew :
    (ran (.mbnew false 1 2) (loaded (picture 7 []) [(1, 5), (2, 0)])).cur = some (newRecord 0 5 0 false) ∧
    ((ran (.mbnew false 1 2) (loaded (picture 7 []) [(1, 5), (2, 17)])).cur.map (·.cbp)) = some 31 := by decide

/-- R377: a P type is not allowed in an I slice. -/
theorem test_mbnew_type : (ran (.mbnew false 1 2) (loaded (picture 7 []) [(1, 5), (2, 27)])).status = 0x641 := by decide

/-- The example of R378. -/
theorem test_mbset : ((ran (.mbset .cbp 1) (loaded (alone 0) [(1, 0x2F)])).cur.map (·.cbp)) = some 0x2F := by decide

theorem test_mbset_i16x16 : (ran (.mbset .cbp 1) (loaded (alone 1) [(1, 0)])).status = 0x641 := by decide

/-- The example of R379. -/
theorem test_tbset :
    ((ran (.tbset .luma4x4 .totalCoeff 1 2) (loaded (alone 0) [(1, 5), (2, 0)])).cur.bind fun m =>
      (m.block 32).map (·.totalCoeff)) = some 5 := by decide

theorem test_tbset_order : (ran (.tbset .luma4x4 .totalZeros 1 2) (loaded (alone 0) [(1, 5), (2, 0)])).status = 0x641 := by
  decide

theorem test_mbcommit :
    (ran .mbcommit (alone 0)).mbstore = [newRecord 0 0 0 false] ∧ (ran .mbcommit (alone 0)).cur = none := by decide

/-- R380, R375, R190: the block at the capacity. -/
theorem test_capacity :
    (ran .mbcommit (capped 0 (alone 0))).status = 0x641 ∧
    (ran (.cfgwra .sliceGroupId 1 2) (capped 7 (regs 9 7 0))).status = 0x641 ∧
    (ran (.cfgwra .sliceGroupId 1 2) (capped 8 (regs 9 7 0))).element .sliceGroupId 7 = 9 ∧
    (ran .slicestart (capped 11 (settings 7 []))).status = 0x641 ∧ (ran .sgmap (capped 11 (picture 7 []))).status = 0x641 := by
  decide

/-- R431: a replaced table is what the operations read, and `SRESET` leaves it. -/
theorem test_replaced_table :
    let s := { regs 1 1 0 with params := { Params.default with runBeforeTable := [[some [false], some [true, true]]] } }
    (ran (.runbefore 1 2) s).out = [true, true] ∧ (ran (.runbefore 1 2) (ran .sreset s)).status = 0x205 ∧
    (ran .sreset s).params = s.params := by decide

theorem test_statrd : (ran (.statrd 3) { State.reset with status := 0x205 }).reg 3 = 0x205 := by decide

theorem test_sreset : ran .sreset { residual with status := 0x205 } = State.reset := by decide

/-! ## The coder and the binarizers -/

/-- R100; 96_test_vectors_derived.md 2.2: -5 with `.S.R.K2`. -/
theorem test_expg :
    (ran (.expg false false 0 1) (regs 3 0 0)).out = [false, false, true, false, false] ∧
    (ran (.expg true true 2 1) (regs 0xFFFFFFFB 0 0)).out = [true, false, true, true, false] := by decide

/-- 2.2: the corners of R104 and R107. -/
theorem test_expg_corners :
    (ran (.expg false false 0 1) (regs 0xFFFFFFFF 0 0)).status = 0x411 ∧
    (ran (.expg false false 1 1) (regs 0xFFFFFFFF 0 0)).out.length = 64 ∧
    (ran (.expg true false 0 1) (regs 0x80000000 0 0)).status = 0x411 ∧
    (ran (.expg false false 32 1) (regs 0 0 0)).status = 0x411 := by decide

theorem test_tu :
    (ran (.tu 1 2) (regs 2 5 0)).out = [true, true, false] ∧ (ran (.tu 1 2) (regs 9 5 0)).out = List.replicate 5 true := by
  decide

theorem test_fl :
    (ran (.fl 1 2) (regs 5 2 0)).out = [false, true] ∧
    (ran (.fl 1 2) (regs 1 33 0)).out = List.replicate 32 false ++ [true] := by decide

theorem test_mbtype :
    (ran (.mbtype 4 1) (loaded (settings 0 []) [(1, 6)])).out = [true, true, false, false, false, false, false] ∧
    (ran (.mbtype 4 1) (loaded (settings 0 []) [(1, 6)])).reg 4 = 1 := by decide

theorem test_mbtype_no_code : (ran (.mbtype 4 1) (loaded (settings 0 []) [(1, 4)])).status = 0x205 := by decide

theorem test_submbtype :
    (ran (.submbtype 1) (loaded (settings 6 []) [(1, 10)])).out = [true, true, true, false, true, true] ∧
    (ran (.submbtype 1) (loaded (settings 2 []) [(1, 0)])).status = 0x205 := by decide

/-- The example of R130, and `CHROMA_ARRAY_TYPE = 0`. -/
theorem test_cbp :
    (ran (.cbp 1) (loaded (picture 7 []) [(1, 0x2B)])).out = [true, true, false, true, true, true] ∧
    (ran (.cbp 1) (regs 0x2B 0 0)).out = [true, true, false, true] := by decide

theorem test_cbp_range : (ran (.cbp 1) (regs 48 0 0)).status = 0x641 := by decide

/-- E8 and 2.3. -/
theorem test_mbqpd :
    (ran (.mbqpd 1) (regs 0xFFFFFFFF 0 0)).out = [true, true, false] ∧
    (ran (.mbqpd 1) (regs 0x80000000 0 0)).status = 0x411 := by decide

theorem test_calm1 :
    (ran (.calm1 1) (regs 13 0 0)).out = List.replicate 13 true ++ [false] ∧
    (ran (.calm1 1) (regs 16 0 0)).out = List.replicate 14 true ++ [true, false, true] := by decide

/-- The example of R136, and 2.3: `.S.K3` of -20 with `ucoff = 9`. -/
theorem test_uegk :
    (ran (.uegk false 0 3 1 2) (regs 3 2 0)).out = [true, true, true, false, false] ∧
    (ran (.uegk true 3 3 1 2) (regs 0xFFFFFFEC 9 0)).out =
      List.replicate 10 true ++ [false, false, false, true, true, true] ∧
    (ran (.uegk true 3 3 1 2) (regs 0xFFFFFFEC 9 0)).reg 3 = 1 := by decide

/-! ## Classification (96_test_vectors_derived.md 2.4) -/

theorem test_isintra : (ran (.isintra 2 0) (alone 25)).reg 2 = 1 ∧ (ran (.isintra 2 0) (alone 32)).reg 2 = 0 := by decide

theorem test_isinter : (ran (.isinter 2 0) (alone 32)).reg 2 = 1 ∧ (ran (.isinter 2 1) (regs 0 0 0)).status = 0x641 := by
  decide

theorem test_numpart : (ran (.numpart 2 0) (alone 28)).reg 2 = 2 ∧ (ran (.numpart 2 0) (alone 56)).reg 2 = 4 := by decide

theorem test_partpred :
    (ran (.partpred 2 0 1) (loaded (alone 41) [(1, 1)])).reg 2 = 4 ∧
    (ran (.partpred 2 0 1) (loaded (alone 28) [(1, 2)])).reg 2 = 7 := by decide

theorem test_partpred_index : (ran (.partpred 2 0 1) (loaded (alone 41) [(1, 4)])).status = 0x641 := by decide

theorem test_partdim : (ran (.partdim 2 0) (alone 29)).reg 2 = 0x0810 := by decide

/-- `P_8x8` with `sub[2] = 1`, `B_8x8` with `sub[0] = 7`. -/
def withSub (t : MbT) (p : Fin 4) (st : SubT) : State :=
  let m := newRecord 0 0 t false
  slice [] { m with sub := m.sub.set p (some st) } 0

theorem test_numsubpart :
    (ran (.numsubpart 2 0 1) (loaded (withSub 30 2 1) [(1, 2)])).reg 2 = 2 ∧
    (ran (.numsubpart 2 0 1) (loaded (withSub 30 0 5) [(1, 0)])).status = 0x205 := by decide

theorem test_subpartpred : (ran (.subpartpred 2 0 1) (loaded (withSub 55 0 7) [(1, 0)])).reg 2 = 5 := by decide

theorem test_subpartdim : (ran (.subpartdim 2 0 1) (loaded (withSub 30 1 2) [(1, 1)])).reg 2 = 0x0408 := by decide

/-! ## The slice-group map (96_test_vectors_derived.md 2.5) -/

/-- The map `SGMAP` makes of the 4 x 3 picture with two groups and these settings. -/
def mapOf (l : List (ConfReg × Word)) : Option (List Nat) :=
  (ran .sgmap (picture 7 ([(numSliceGroupsMinus1, 1)] ++ l))).map.map fun m => m.map BitVec.toNat

theorem test_sgmap_box_out :
    mapOf [(sliceGroupMapType, 3), (sliceGroupChangeCycle, 5)] = some [1, 0, 0, 0, 1, 0, 0, 1, 1, 1, 1, 1] := by
  decide +kernel

/-- The positions of that walk, by hand from R196: from unit 6, one left, one up, then right. -/
theorem test_box_out_walk : visited 4 3 0 5 = [6, 5, 1, 2, 3] := by decide

theorem test_sgmap_columns :
    mapOf [(sliceGroupMapType, 5), (sliceGroupChangeDirectionFlag, 1), (sliceGroupChangeCycle, 5)] =
      some [1, 1, 1, 0, 1, 1, 0, 0, 1, 1, 0, 0] := by decide +kernel

theorem test_maprd :
    (ran (.maprd 4 1) { loaded (picture 7 []) [(1, 2)] with map := some [0, 1, 5, 0, 1, 0, 1, 0, 1, 0, 1, 0] }).reg 4 = 5 ∧
    (ran (.maprd 4 1) (picture 7 [])).status = 0x641 := by decide

/-! ## Neighbours (96_test_vectors_derived.md 2.6) -/

/-- The full 4 x 3 picture, with the operands of a `NEIGH`. -/
def full (c x y : Word) : State :=
  loaded (slice [0, 1, 2, 3, 4, 5, 6, 7, 8, 9, 10] (newRecord 11 11 0 false) 0) [(1, c), (2, x), (3, y)]

/-- The three results of a `NEIGH` from `x4` on. -/
def results (s : State) : List Nat := [(s.reg 4).toNat, (s.reg 5).toNat, (s.reg 6).toNat]

theorem test_neigh :
    results (ran (.neigh false .none 4 1 2 3) (full 5 0xFFFFFFFF 0xFFFFFFFF)) = [0, 15, 15] ∧
    results (ran (.neigh true .none 4 1 2 3) (full 5 3 0xFFFFFFFF)) = [1, 3, 7] ∧
    results (ran (.neigh false .none 4 1 2 3) (full 7 16 0xFFFFFFFF)) = [0xFFFFFFFF, 0, 0] := by decide

theorem test_neigh_window :
    (ran (.neigh false .none 4 1 2 3) (full 5 0xFFFFFFEF 0)).status = 0x641 ∧
    (ran (.neigh false .none 4 1 2 3) (full 12 0 0)).status = 0x641 := by decide

theorem test_blk2xy :
    (ran (.blk2xy .luma4x4 4 1) (regs 6 0 0)).reg 4 = 8 ∧ (ran (.blk2xy .luma4x4 4 1) (regs 6 0 0)).reg 5 = 4 := by decide

theorem test_xy2blk :
    (ran (.xy2blk .luma4x4 4 1 2) (regs 13 6 0)).reg 4 = 7 ∧ (ran (.xy2blk .luma4x4 4 1 2) (regs 16 0 0)).status = 0x641 := by
  decide

theorem test_xy2part :
    (ran (.xy2part 4 0 2 3) (loaded (alone 28) [(2, 3), (3, 9)])).reg 4 = 1 ∧
    (ran (.xy2part 4 0 2 3) (loaded (alone 33) [(2, 13), (3, 14)])).reg 5 = 3 := by decide

/-! ## The residual encoder -/

/-- Program P3: block 1 takes its context from block 0; R27, U12: a flag above 1 is caught there, but not for block 0, which
has no neighbour (log entry 14). -/
theorem test_nc :
    (ran (.nc .luma4x4 4 1) residual).reg 4 = 5 ∧
    (ran (.nc .luma4x4 4 1) (residual.setConf constrainedIntraPredFlag 2)).status = 0x641 ∧
    (ran (.nc .luma4x4 4 0) (residual.setConf constrainedIntraPredFlag 2)).status = 0 := by decide

/-- R262: Chroma DC, `CHROMA_ARRAY_TYPE = 1`. -/
theorem test_nc_chroma_dc : (ran (.nc (.chromaDC .cb) 4 0) residual).s 4 = -1 := by decide

theorem test_coefftoken :
    (ran (.coefftoken 1 2 3) (regs 0 5 3)).out = [false, false, false, false, true, false, false] ∧
    (ran (.coefftoken 1 2 3) (regs 0xFFFFFFFF 4 3)).out = List.replicate 7 false := by decide

theorem test_coefftoken_faults :
    (ran (.coefftoken 1 2 3) (regs 0xFFFFFFFD 0 0)).status = 0x641 ∧
    (ran (.coefftoken 1 2 3) (regs 0 2 3)).status = 0x205 := by decide

theorem test_levelpfx : (ran (.levelpfx 1) (regs 2 0 0)).out = [false, false, true] := by decide

theorem test_totalzeros :
    (ran (.totalzeros .max16 1 2) (regs 3 5 0)).out = [true, true, true] ∧
    (ran (.totalzeros .max16 1 2) (regs 2 15 0)).status = 0x205 := by decide

theorem test_runbefore :
    (ran (.runbefore 1 2) (regs 1 3 0)).out = [true, false] ∧ (ran (.runbefore 1 2) (regs 2 1 0)).status = 0x205 := by
  decide

/-- The worked example R289: `000010001110010111101101`. -/
theorem test_resblk :
    (ran (.resblk .luma4x4 0) residual).out = bin 0b000010001110010111101101 24 ∧
    ((ran (.resblk .luma4x4 0) residual).cur.bind fun m => (m.block 32).bind (·.nC)) = some 0 := by decide

/-! ## Witnesses: for every statement with hypotheses, states and operands that meet them -/

/-- Macroblock 0 of `exampleMb` committed, a field-coded MBAFF pair's size of picture, a map, an element of
`SLICE_GROUP_ID`, and a `CUR` whose block stands at the upper ends of its ranges. -/
def busyBlock : TransformBlock :=
  { freshBlock 16 with
    trailingOnes := 3, totalZeros := 15, nC := some 16, runBefore := Vector.replicate 15 14
    levelSuffixSize := Vector.replicate 16 32, levelPrefix := Vector.replicate 16 0xFFFFFFFF }

/-- A state in use, of a block that holds 12 macroblocks, with the word of `MBCOMMIT` issued. -/
def busy : State :=
  { picture 6 [] with
    mbstore := [exampleMb]
    cur := some { (newRecord 1 11 16 false).setBlock 16 busyBlock with t8x8 := true }
    map := some (List.replicate 12 7), sliceGroupId := [(2, 7)], port := [0x0A00000000000000]
    params := { Params.default with maxMbs := some 12 } }

/-- What `RecordsOrdered` asks, in a form that evaluates. -/
theorem recordsOrdered_of {s : State}
    (h : ∀ i : Fin s.records.length, s.records[i].idx = BitVec.ofNat 32 i.val ∧
      s.records[i].addr.toNat < s.geo.picSizeInMbs.toNat)
    (k : ∀ i j : Fin s.records.length, i < j → s.records[i].addr.toNat < s.records[j].addr.toNat) :
    RecordsOrdered s := by
  refine ⟨fun i m hm => ?_, fun i j m n hij hm hn => ?_⟩
  · obtain ⟨hi, rfl⟩ := List.getElem?_eq_some_iff.1 hm
    exact h ⟨i, hi⟩
  · obtain ⟨hi, rfl⟩ := List.getElem?_eq_some_iff.1 hm
    obtain ⟨hj, rfl⟩ := List.getElem?_eq_some_iff.1 hn
    exact k ⟨i, hi⟩ ⟨j, hj⟩ hij

/-- An entry found is listed. -/
theorem mem_of_entryAt {α : Type} {k : Nat} {a : α} {l : List (Nat × α)} (h : entryAt k l = some a) : (k, a) ∈ l := by
  induction l with
  | nil => cases h
  | cons e rest ih =>
    obtain ⟨j, b⟩ := e
    unfold entryAt at h
    split at h
    · rename_i hj
      cases h
      exact hj ▸ List.mem_cons_self ..
    · exact List.mem_cons_of_mem _ (ih h)

/-- What `RecordsInRange` asks, in a form that evaluates. -/
theorem recordsInRange_of {s : State}
    (h : ∀ m ∈ s.records, m.cbp.toNat ≤ 47 ∧ (m.type.isI16x16 = true → m.cbp = m.type.impliedCbp) ∧
      keysRise m.tbs = true ∧ (m.fieldCoded = true → s.geo.mbaffFrameFlag ≠ 0))
    (k : (s.records.all fun m => m.tbs.all fun e =>
      decide (e.2.totalCoeff.toNat ≤ 16) && decide (e.2.totalZeros.toNat ≤ 15) &&
        (e.2.runBefore.toList.all fun n => decide (n.toNat ≤ 14)) &&
        (e.2.levelSuffixSize.toList.all fun n => decide (n.toNat ≤ 32)) &&
        e.2.nC.toList.all fun n => decide (-2 ≤ n.toInt ∧ n.toInt ≤ 16)) = true) :
    RecordsInRange s := by
  intro m hm
  obtain ⟨h1, h2, h3, h4⟩ := h m hm
  refine ⟨⟨h1, h2, h3, fun i b hb => ?_⟩, h4⟩
  have hk := List.all_eq_true.1 (List.all_eq_true.1 k m hm) _ (mem_of_entryAt hb)
  simp only [Bool.and_eq_true, decide_eq_true_eq, List.all_eq_true] at hk
  obtain ⟨⟨⟨⟨k1, k2⟩, k3⟩, k4⟩, k5⟩ := hk
  refine ⟨k1, k2, fun i n hn => k3 n ?_, fun i n hn => k4 n ?_, fun n hn => k5 n ?_⟩
  · exact List.mem_of_getElem? (i := i) (by simpa using hn)
  · exact List.mem_of_getElem? (i := i) (by simpa using hn)
  · simpa using hn

theorem busy_ordered : RecordsOrdered busy := recordsOrdered_of (by decide) (by decide)

theorem busy_inRange : RecordsInRange busy := recordsInRange_of (by decide) rfl

theorem busy_stores : StoresFormed busy :=
  ⟨by decide, by decide, fun m h => by obtain rfl := Option.some.inj h; exact ⟨rfl, by decide⟩, by decide⟩

theorem geometryFits_of {s : State} (h : s.geo = geometry) (k : WithinMaxMbs s 12) : GeometryFits s := by
  unfold GeometryFits
  rw [h]
  exact ⟨rfl, .inl rfl, fun _ => rfl, by decide, k, by decide, by decide, by decide, by decide, by decide⟩

theorem busy_geometry : GeometryFits busy := geometryFits_of rfl (by decide)

theorem witness_DecodeOfEncode :
    (Instr.neigh true .field 13 15 15 15).wellFormed = true ∧
    (Instr.tbset (.chromaAC .cr) (.runBefore 14) 15 15).wellFormed = true := by decide

theorem witness_EncodeOfDecode : decode 0x40DFFF0500000000 = .ok (.neigh true .field 13 15 15 15) := by decide

theorem witness_StepRunsDecoded :
    busy.port = [0x0A00000000000000] ∧ decode 0x0A00000000000000 = .ok .mbcommit ∧ State.reset.port = [] ∧
    (Instr.xy2part 14 0 0 0).wellFormed = true := by decide

theorem witness_IllegalWordRaises :
    let s := State.reset.withFetchWord 64 0x1003000900000001
    s.halted = false ∧ s.port = [0x1003000900000001] ∧ (∃ e, decode 0x1003000900000001 = .error e) ∧
    ∀ op ∈ [(0x0D : BitVec 8), 0x0F, 0x19, 0x1F, 0x28, 0x2F, 0x32, 0x3F, 0x44, 0x4F, 0x56, 0xFF],
      (op ++ (0 : BitVec 56) : CommandWord).toNat / 2 ^ 56 = op.toNat :=
  ⟨by decide, by decide, ⟨_, rfl⟩, by decide⟩

theorem witness_HaltedState :
    let s := fun w => { busy with status := 0x641, port := [w] }
    (∀ w, (s w).halted = true) ∧ decode 0x0BF0000000000000 = .ok (.statrd 15) ∧
    decode 0x0410001100000000 = .ok (.cfgrd (.conf sliceGroupChangeCycle) 1) ∧
    decode 0x0C00000000000000 = .ok .sreset ∧ decode 0x0150000000000007 = .ok (.ldi 5 7) ∧
    illegal 0x0D00000000000000 ∧
    (∃ t, step (s 0x0C00000000000000) = .next t ∧ t.halted = false) :=
  ⟨fun _ => show haltBit 0x641 = true by decide, by decide, by decide, by decide, by decide, by decide, ⟨_, rfl, rfl⟩⟩

/-- A command that retires and one that faults. -/
theorem witness_FaultsArePrecise :
    busy.halted = false ∧ (∃ t, exec .mbcommit busy = .next t) ∧ ∃ t, exec (.mbnew false 1 2) busy = .next t :=
  ⟨by decide, ⟨_, rfl⟩, ⟨_, rfl⟩⟩

theorem witness_StatusLegalKept : StatusLegal busy ∧ ∃ t, step busy = .next t := ⟨.inl (by decide), _, rfl⟩

theorem witness_OutLenAgreesKept :
    OutLenAgrees { busy with out := [true, false], outLen := 2 } ∧
    ∃ t, step { busy with out := [true, false], outLen := 2 } = .next t := ⟨fun _ => rfl, _, rfl⟩

theorem witness_StoresAndGeometryKept : StoresFormed busy ∧ GeometryFits busy ∧ ∃ t, step busy = .next t :=
  ⟨busy_stores, busy_geometry, _, rfl⟩

theorem witness_RecordsOrderedKept : RecordsOrdered busy ∧ ∃ t, step busy = .next t := ⟨busy_ordered, _, rfl⟩

theorem witness_RecordsInRangeKept : RecordsInRange busy ∧ ∃ t, step busy = .next t := ⟨busy_inRange, _, rfl⟩

theorem witness_WrittenOnce : (∃ t, exec .mbcommit busy = .next t) ∧ ∃ t, exec (.levelpfx 1) busy = .next t :=
  ⟨⟨_, rfl⟩, ⟨_, rfl⟩⟩

/-- A command for each clause that writes the store the clause is about. -/
theorem witness_WritersOfEachStore :
    (∃ t, exec (.cfgwr sliceType 1) busy = .next t ∧ t.cfg ≠ busy.cfg) ∧
    (∃ t, exec (.cfgwra .sliceGroupId 0 1) (loaded busy [(1, 2)]) = .next t ∧
      t.element .sliceGroupId 2 ≠ busy.element .sliceGroupId 2) ∧
    (∃ t, exec .slicestart busy = .next t ∧ t.map ≠ busy.map ∧ t.mbstore ≠ busy.mbstore) ∧
    (∃ t, exec .slicestart (settings 7 []) = .next t ∧ t.geo ≠ (settings 7 []).geo) ∧
    (∃ t, exec .mbcommit busy = .next t ∧ t.cur ≠ busy.cur) ∧ (∃ t, exec (.tu 1 2) (regs 0 1 0) = .next t ∧ t.out ≠ []) ∧
    ∃ t, exec (.ldi 1 5) busy = .next t ∧ t.reg 1 ≠ busy.reg 1 := by
  refine ⟨⟨_, rfl, ?_⟩, ⟨_, rfl, ?_⟩, ⟨_, rfl, ?_, ?_⟩, ⟨_, rfl, ?_⟩, ⟨_, rfl, ?_⟩, ⟨_, rfl, ?_⟩, ⟨_, rfl, ?_⟩⟩ <;> decide

theorem witness_ReadsOnlySources : (3 : Reg) ∉ (Instr.tu 1 2).sources ∧ ∃ t, exec (.tu 1 2) (regs 2 5 0) = .next t :=
  ⟨by decide, _, rfl⟩

/-- The states the statements about one instruction are about are not halted. -/
theorem witness_NopLdiMov : busy.halted = false := by decide

theorem witness_CfgwrStores : (configured [(sliceGroupChangeCycle, 0xFFFFFFFF)]).halted = false := by decide

/-- Index 7, the last of an array; 8, past it; 11, the last of array 3 where `MAX_MBS` is 12, and 12, past it; and any index
of array 3 where it is unbounded. -/
theorem witness_CfgwraStores :
    let s := loaded busy [(1, 7), (2, 8), (3, 11), (4, 12)]
    s.halted = false ∧ Memory.wf s.sliceGroupId = true ∧ s.u 1 < 8 ∧ ArrayId.topLeft ≠ .sliceGroupId ∧ ¬s.u 2 < 8 ∧
    WithinMaxMbs s (s.u 3 + 1) ∧ ¬WithinMaxMbs s (s.u 4 + 1) ∧ WithinMaxMbs State.reset (2 ^ 32) := by decide

/-- The largest picture, three separate planes; an MBAFF frame; a field; a picture at the capacity. -/
theorem witness_SlicestartLatches :
    let admitted := fun s : State =>
      let cfi := (s.conf chromaFormatIdc).toNat
      let scp := (s.conf separateColourPlaneFlag).toNat
      let w := (s.conf picWidthInMbsMinus1).toNat + 1
      let h := (s.conf picHeightInMapUnitsMinus1).toNat + 1
      let frameMbsOnly := (s.conf frameMbsOnlyFlag).toNat
      let mbaffFlag := (s.conf mbAdaptiveFrameFieldFlag).toNat
      let fieldPic := (s.conf fieldPicFlag).toNat
      s.halted = false ∧ cfi ≤ 3 ∧ scp ≤ 1 ∧ (scp = 1 → cfi = 3) ∧ frameMbsOnly ≤ 1 ∧ mbaffFlag ≤ 1 ∧ fieldPic ≤ 1 ∧
        ¬(fieldPic = 1 ∧ frameMbsOnly = 1) ∧ w ≤ 65536 ∧ h ≤ 65536 ∧ w * h < 2 ^ 32 ∧
        WithinMaxMbs s (w * ((2 - frameMbsOnly) * h / (1 + fieldPic)))
    admitted (configured [(chromaFormatIdc, 3), (separateColourPlaneFlag, 1), (picWidthInMbsMinus1, 65535),
      (picHeightInMapUnitsMinus1, 65534), (frameMbsOnlyFlag, 1)]) ∧
    admitted (configured [(chromaFormatIdc, 1), (mbAdaptiveFrameFieldFlag, 1)]) ∧
    admitted (configured [(fieldPicFlag, 1)]) ∧ admitted (capped 12 (settings 7 [])) := by decide

/-- One state for each way to fail, and one of the two policies for a chroma format above 3. -/
theorem witness_SlicestartFaults :
    let scp := fun s : State => (s.conf separateColourPlaneFlag).toNat
    let cfi := fun s : State => (s.conf chromaFormatIdc).toNat
    let a := configured [(separateColourPlaneFlag, 2)]
    let b := configured [(separateColourPlaneFlag, 1), (chromaFormatIdc, 2)]
    let c := configured [(frameMbsOnlyFlag, 2)]
    let d := configured [(mbAdaptiveFrameFieldFlag, 2)]
    let e := configured [(fieldPicFlag, 1), (frameMbsOnlyFlag, 1)]
    let f := configured [(picWidthInMbsMinus1, 65536)]
    let g := configured [(picWidthInMbsMinus1, 65535), (picHeightInMapUnitsMinus1, 65535)]
    let h := configured [(chromaFormatIdc, 4)]
    let i := capped 11 (settings 7 [])
    (∀ s ∈ [a, b, c, d, e, f, g, h, i], s.halted = false) ∧ cfi a ≤ 3 ∧ 1 < scp a ∧ cfi b ≤ 3 ∧ scp b = 1 ∧ cfi b ≠ 3 ∧
    (∀ s ∈ [c, d, e, f, g, i], cfi s ≤ 3 ∧ scp s ≤ 1 ∧ (scp s = 1 → cfi s = 3)) ∧
    1 < (c.conf frameMbsOnlyFlag).toNat ∧ 1 < (d.conf mbAdaptiveFrameFieldFlag).toNat ∧ e.conf fieldPicFlag = 1 ∧
    e.conf frameMbsOnlyFlag = 1 ∧ 65536 < (f.conf picWidthInMbsMinus1).toNat + 1 ∧
    2 ^ 32 ≤ ((g.conf picWidthInMbsMinus1).toNat + 1) * ((g.conf picHeightInMapUnitsMinus1).toNat + 1) ∧ 3 < cfi h ∧
    ¬WithinMaxMbs i (((i.conf picWidthInMbsMinus1).toNat + 1) * ((2 - (i.conf frameMbsOnlyFlag).toNat) *
      ((i.conf picHeightInMapUnitsMinus1).toNat + 1) / (1 + (i.conf fieldPicFlag).toNat))) ∧
    (Config.chromaOorPolicy = .fault ∨ Config.chromaOorPolicy = .default420) := by
  refine ⟨by decide, by decide, by decide, by decide, by decide, by decide, by decide, by decide, by decide, by decide,
    by decide, by decide, by decide, by decide, by decide, ?_⟩
  cases Config.chromaOorPolicy
  · exact .inl rfl
  · exact .inr rfl

/-- The last address of the picture with each kind of type at the ends of its range; the second macroblock of an MBAFF
pair; and conditions that fail. -/
theorem witness_MbnewOpens :
    let s := fun st (ty : Word) => loaded (picture st []) [(1, 11), (2, ty)]
    let may := fun (st ty : Word) =>
      (s st ty).halted = false ∧ (s st ty).geo.picWidthInMbs ≠ 0 ∧ (s st ty).cur = none ∧
      (s st ty).u 1 < (s st ty).geo.picSizeInMbs.toNat ∧ (s st ty).mbstore = [] ∧
      (s st ty).conf sliceType = st ∧ (s st ty).reg 2 = ty
    (may 7 25 ∧ may 9 26 ∧ may 8 32 ∧ may 5 27 ∧ may 6 56 ∧ may 1 33) ∧
    (let t := { s 7 0 with mbstore := [newRecord 0 10 0 true], geo := { geometry with mbaffFrameFlag := 1 } }
     t.halted = false ∧ t.cur = none ∧ t.geo.mbaffFrameFlag = 1 ∧ t.u 1 % 2 = 1 ∧
     t.mbstore.getLast? = some (newRecord 0 10 0 true) ∧ t.u 2 ≤ 25) ∧
    State.reset.geo.picWidthInMbs = 0 := by decide

theorem witness_MbsetWrites :
    let s := fun (t : MbT) => loaded (alone t) [(1, 47), (2, 16), (3, 1), (4, 48), (5, 17), (6, 2)]
    State.reset.cur = none ∧ (s 25).halted = false ∧ (s 25).cur = some (newRecord 0 0 25 false) ∧ (s 25).u 1 = 47 ∧
    (s 25).u 2 = 16 ∧ (s 25).u 3 = 1 ∧ (s 25).u 4 = 48 ∧ (s 25).u 5 = 17 ∧ (s 25).u 6 = 2 ∧
    (s 24).cur = some (newRecord 0 0 24 false) := by decide

/-- The last block of the last category, and each symbol at the end of its range. -/
theorem witness_TbsetWrites :
    let m := (newRecord 0 0 24 false).setBlock 171 (freshBlock 1)
    let s := loaded (slice [] m 0) [(1, 16), (2, 3), (3, 1), (4, 15), (5, 14)]
    s.halted = false ∧ s.cur = some m ∧ NamesBlock s (.chromaAC .cr) (s.u 2) ∧ blockKey (.chromaAC .cr) 3 = 171 ∧
    SymbolInRange .totalCoeff (s.u 1) ∧ SymbolInRange .trailingOnes (s.u 2) ∧ SymbolInRange (.t1Sign 2) (s.u 3) ∧
    SymbolInRange (.levelPrefix 15) (s.u 1) ∧ SymbolInRange (.levelSuffix 15 32) (s.u 1) ∧
    SymbolInRange .totalZeros (s.u 4) ∧ SymbolInRange (.runBefore 14) (s.u 5) ∧ ∃ old, m.block 171 = some old := by
  unfold NamesBlock SymbolInRange
  exact ⟨by decide, by decide, by decide, by decide, by decide, by decide, by decide, by decide, by decide, by decide,
    by decide, ⟨_, rfl⟩⟩

/-- A record that fits, and one past the capacity; no `CUR`; a block, a value and a symbol that trap. -/
theorem witness_MbcommitAndRecordTraps :
    let s := capped 1 (loaded (alone 0) [(1, 17), (2, 4), (3, 0)])
    s.halted = false ∧ s.cur = some (newRecord 0 0 0 false) ∧ WithinMaxMbs s (s.mbstore.length + 1) ∧
    ¬WithinMaxMbs (capped 0 s) ((capped 0 s).mbstore.length + 1) ∧ State.reset.cur = none ∧
    ¬NamesBlock s (.chromaAC .cb) (s.u 2) ∧ ¬SymbolInRange .totalCoeff (s.u 1) ∧
    (newRecord 0 0 0 false).block (blockKey .luma4x4 (s.u 3)) = none := by
  unfold NamesBlock SymbolInRange; decide

/-- The largest signed value, the largest value order 0 takes, and the highest order. -/
theorem witness_ExpgAppends :
    let s := regs 0x7FFFFFFF 0xFFFFFFFE 0xFFFFFFFF
    s.halted = false ∧ s.s 1 ≠ -2 ^ 31 ∧ s.u 2 ≠ 2 ^ 32 - 1 ∧ s.u 3 = 2 ^ 32 - 1 ∧ (31 : Fin 64).val ≤ 31 := by decide

theorem witness_ExpgOverflows :
    let s := regs 0x80000000 0xFFFFFFFF 0
    s.halted = false ∧ s.s 1 = -2 ^ 31 ∧ s.u 2 = 2 ^ 32 - 1 ∧ 31 < (32 : Fin 64).val := by decide

/-- A value one below its maximum, and one that equals it. -/
theorem witness_TuFlLevelpfxAppend :
    let s := regs 4 5 5
    s.halted = false ∧ s.u 1 < s.u 2 ∧ s.u 3 ≤ s.u 2 := by decide

theorem witness_CbpMbqpdAppend :
    let s := regs 47 48 0x80000000
    s.halted = false ∧ s.u 1 ≤ 47 ∧ 47 < s.u 2 ∧ s.s 3 = -2 ^ 31 ∧ s.s 1 ≠ -2 ^ 31 := by decide

theorem witness_Calm1Appends :
    let s := regs 13 14 0
    s.halted = false ∧ s.u 1 < 14 ∧ 14 ≤ s.u 2 := by decide

theorem witness_Calm1IsUegk : (regs 20 14 0).halted = false ∧ (regs 20 14 0).u 2 = 14 := by decide

/-- A value below, at, and far above the cut-off; the longest suffix, and one too long. -/
theorem witness_UegkAppends :
    let s := loaded (regs 8 9 0xFFFFFFFE) [(4, 0xFFFFFFFF)]
    s.halted = false ∧ s.u 1 < s.u 2 ∧ s.u 2 ≤ s.u 2 ∧ (s.u 3 - 0) / 2 ^ 0 + 1 ≤ 2 ^ 32 - 1 ∧
    2 ^ 32 - 1 < (s.u 4 - 0) / 2 ^ 0 + 1 ∧ 31 < (32 : Fin 64).val := by decide

/-- Each slice class, with values at the ends of each clause's range. -/
theorem witness_TypeCodesAppended :
    let s := fun st (v : Word) => loaded (settings st []) [(1, v)]
    let holds := fun (st v : Word) =>
      (s st v).halted = false ∧ (s st v).conf sliceType = st ∧ (s st v).reg 1 = v
    (holds 7 25 ∧ holds 5 3 ∧ holds 8 5 ∧ holds 5 30 ∧ holds 6 22 ∧ holds 6 23 ∧ holds 6 48 ∧ holds 9 0 ∧ holds 9 1) ∧
    (holds 9 26 ∧ holds 1 12 ∧ holds 10 0 ∧ holds 7 26 ∧ holds 5 4 ∧ holds 5 31 ∧ holds 6 49 ∧ holds 9 27 ∧ holds 6 13) ∧
    (∃ word, bTypeCodes[22]? = some (some word)) ∧
    (∃ bits nested, Params.default.mbTypeBinTable.entry .p 30 = some (bits, nested)) ∧
    Params.default.mbTypeBinTable.entry .p 4 = none ∧ (∃ bits, Params.default.subMbTypeBinTable.entry .b 12 = some bits) ∧
    Params.default.subMbTypeBinTable.entry .si 0 = none ∧ (s 7 0).params = Params.default :=
  ⟨by decide, by decide, ⟨_, rfl⟩, ⟨_, _, rfl⟩, by decide, ⟨_, rfl⟩, by decide, rfl⟩

/-- A committed record and `CUR`, and partition index 3. -/
theorem witness_TypeQueries :
    let s := loaded busy [(1, 0), (2, 1), (3, 3)]
    s.halted = false ∧ NamesRecord s (s.u 1) exampleMb ∧ (∃ m, NamesRecord s (s.u 2) m ∧ m.type.val = 16) ∧
    s.u 3 ≤ 3 ∧ s.params.mbClassTable = Params.default.mbClassTable :=
  ⟨by decide, .inl rfl, ⟨_, .inr ⟨rfl, rfl⟩, rfl⟩, by decide, rfl⟩

theorem witness_SubTypeQueries :
    (∃ m, NamesRecord (loaded (withSub 30 3 3) [(1, 3)]) 0 m ∧ SubTypeIs m 3 3) ∧
    (∃ m, NamesRecord (loaded (withSub 55 3 16) [(1, 3)]) 0 m ∧ SubTypeIs m 3 16) ∧
    (∃ m, NamesRecord (alone 56) 0 m ∧ m.type.val = 56) ∧
    (∃ m, NamesRecord (withSub 30 0 4) 0 m ∧ ¬∃ st, SubTypeIs m 0 st) ∧ (withSub 30 3 3).halted = false ∧
    (withSub 30 3 3).params.subMbClassTable = Params.default.subMbClassTable := by
  refine ⟨⟨_, .inr ⟨rfl, rfl⟩, ⟨_, rfl, rfl⟩, .inr ⟨.inl rfl, by decide⟩⟩,
    ⟨_, .inr ⟨rfl, rfl⟩, ⟨_, rfl, rfl⟩, .inl ⟨rfl, by decide⟩⟩, ⟨_, .inr ⟨rfl, rfl⟩, rfl⟩,
    ⟨_, .inr ⟨rfl, rfl⟩, ?_⟩, by decide, rfl⟩
  rintro ⟨st, ⟨u, hu, rfl⟩, h⟩
  obtain rfl : (4 : SubT) = u := Option.some.inj (Option.some.inj hu)
  revert h
  decide

/-- An index one past the last record. -/
theorem witness_RecordOperandsTrap :
    let s := loaded busy [(1, 2), (2, 4), (3, 16)]
    s.halted = false ∧ (¬∃ m, NamesRecord s (s.u 1) m) ∧ 3 < s.u 2 ∧ 15 < s.u 3 ∧ (14 : Reg).val ≤ 14 ∧
    (13 : Reg).val ≤ 13 := by
  refine ⟨by decide, ?_, by decide, by decide, by decide, by decide⟩
  rintro ⟨m, h | ⟨h, -⟩⟩
  · cases h
  · revert h; decide

/-- A state ready for `SGMAP` with a map type and more settings. -/
def mapping (l : List (ConfReg × Word)) : State := picture 7 ([(numSliceGroupsMinus1, 1)] ++ l)

theorem witness_SgmapCompletes :
    MapReady (mapping [(sliceGroupMapType, 5), (sliceGroupChangeDirectionFlag, 1)]) ∧
    MapReady (capped 12 (picture 7 [(sliceGroupMapType, 99)])) ∧
    (mapping [(sliceGroupMapType, 5), (sliceGroupChangeDirectionFlag, 1)]).halted = false :=
  ⟨by simp only [MapReady]; decide, by simp only [MapReady]; decide, by decide⟩

/-- Every map type, the rectangles at the last map unit, and eight groups. -/
theorem witness_SgmapGroups :
    (let ready := fun ty => MapReady (mapping [(sliceGroupMapType, ty)])
     ready 0 ∧ ready 1 ∧ ready 3 ∧ ready 4 ∧ ready 5 ∧ ready 6) ∧
    MapReady { mapping [(sliceGroupMapType, 2)] with topLeft := #v[11, 0, 0, 0, 0, 0, 0, 0], bottomRight := #v[11, 0, 0, 0, 0, 0, 0, 0] } ∧
    MapReady { mapping [(sliceGroupMapType, 6)] with sliceGroupId := [(11, 7)] } ∧
    MapReady (mapping [(numSliceGroupsMinus1, 7)]) ∧ (mapping []).halted = false ∧ GeometryFits (mapping []) :=
  ⟨by refine ⟨?_, ?_, ?_, ?_, ?_, ?_⟩ <;> (simp only [MapReady]; decide), by simp only [MapReady]; decide, by simp only [MapReady]; decide, by simp only [MapReady]; decide,
    by decide, geometryFits_of rfl (by decide)⟩

theorem witness_SgmapFaults :
    let n := fun s : State => s.geo.picSizeInMapUnits.toNat
    let unchanged := fun s : State => (s.conf frameMbsOnlyFlag = 1 ∨ s.conf fieldPicFlag = 1) ↔
      s.geo.picSizeInMbs = s.geo.picSizeInMapUnits
    let fits := fun s : State => WithinMaxMbs s s.geo.picSizeInMbs.toNat
    let ok := fun s : State => s.halted = false ∧ n s ≠ 0 ∧ fits s ∧ unchanged s
    n State.reset = 0 ∧ ¬fits (capped 11 (mapping [])) ∧ ¬unchanged (mapping [(frameMbsOnlyFlag, 0)]) ∧ ok (mapping [(numSliceGroupsMinus1, 8)]) ∧
    ok (mapping [(sliceGroupMapType, 7)]) ∧
    ok (mapping [(sliceGroupMapType, 3), (sliceGroupChangeDirectionFlag, 2)]) ∧
    (let s := { mapping [(sliceGroupMapType, 2)] with bottomRight := #v[12, 0, 0, 0, 0, 0, 0, 0] }
     ok s ∧ n s ≤ (s.element .bottomRight 0).toNat) ∧
    (let s := { mapping [(sliceGroupMapType, 6)] with sliceGroupId := [(11, 8)] }
     ok s ∧ 7 < (s.element .sliceGroupId 11).toNat) := by
  refine ⟨?_, ?_, ?_, ?_, ?_, ?_, ?_, ?_⟩ <;> decide

/-- Two groups with runs of one; a box-out map. -/
theorem witness_SgmapProperties :
    let s := mapping [(sliceGroupMapType, 0)]
    let t := mapping [(sliceGroupMapType, 3), (sliceGroupChangeCycle, 5)]
    s.halted = false ∧ t.halted = false ∧ MapReady s ∧ MapReady t ∧ GeometryFits s ∧ GeometryFits t ∧
    s.conf numSliceGroupsMinus1 = 1 ∧ s.conf sliceGroupMapType = 0 ∧ s.element .runLengthMinus1 0 = 0 ∧
    s.element .runLengthMinus1 1 = 0 ∧ t.conf sliceGroupMapType = 3 :=
  ⟨by decide, by decide, by simp only [MapReady]; decide, by simp only [MapReady]; decide, geometryFits_of rfl (by decide),
    geometryFits_of rfl (by decide),
    by decide, by decide, by decide, by decide, by decide⟩

/-- The last macroblock of the picture, and one past it. -/
theorem witness_MaprdReads :
    let s := loaded busy [(1, 11), (2, 12)]
    s.halted = false ∧ s.map = some (List.replicate 12 7) ∧ s.u 1 < s.geo.picSizeInMbs.toNat ∧
    (List.replicate 12 (7 : GroupId))[s.u 1]? = some 7 ∧ s.geo.picSizeInMbs.toNat ≤ s.u 2 ∧ State.reset.map = none := by
  decide

/-- An MBAFF picture with a field pair. -/
def fieldPair (x y : Word) : State :=
  loaded { slice [0] { (newRecord 1 1 0 true) with fieldCoded := true } 0 with geo := { geometry with mbaffFrameFlag := 1 } }
    [(1, 1), (2, x), (3, y)]

/-- The offsets at the two ends of the window and one outside it; and in the MBAFF regime the far corner of the window, which
needs the open table, with the first macroblock of a pair in the store and the second one `CUR`. -/
theorem witness_NeighCompletes :
    let s := loaded (full 5 0xFFFFFFF0 31) [(4, 32), (5, 0xFFFFFFF8), (6, 15)]
    s.halted = false ∧ (13 : Reg).val ≤ 13 ∧ NamesRecord s (s.u 1) (newRecord 5 5 0 false) ∧ s.geo.picWidthInMbs ≠ 0 ∧
    s.geo.chromaArrayType ≠ 0 ∧ s.s 2 = -16 ∧ s.s 3 = 2 * 16 - 1 ∧ 2 * 16 - 1 < s.s 4 ∧
    s.s 5 = -(s.geo.mbWidthC.toNat : Int) ∧ s.s 6 = 2 * (s.geo.mbWidthC.toNat : Int) - 1 ∧
    (let t := fieldPair 0xFFFFFFF0 0xFFFFFFF0
     t.halted = false ∧ NamesRecord t (t.u 1) { (newRecord 1 1 0 true) with fieldCoded := true } ∧
     t.geo.mbaffFrameFlag = 1 ∧ t.geo.picWidthInMbs ≠ 0 ∧ t.s 2 = -16 ∧ t.s 3 = -16) :=
  ⟨by decide, by decide, .inl rfl, by decide, by decide, by decide, by decide, by decide, by decide, by decide,
    by decide, .inr ⟨rfl, rfl⟩, by decide, by decide, by decide, by decide⟩

/-- Inside the macroblock; a candidate that is available; one that is not there; no candidate. -/
theorem witness_NeighNonMbaff :
    let s := full 5 0xFFFFFFFF 3
    s.halted = false ∧ NamesRecord s (s.u 1) (newRecord 5 5 0 false) ∧ RecordsOrdered s ∧ s.geo.mbaffFrameFlag = 0 ∧
    s.geo.picWidthInMbs ≠ 0 ∧ s.s 2 = -1 ∧ s.s 3 = 3 ∧ candidateOf 4 5 16 16 (-1) 3 = some 4 ∧ AvailableAt s 5 4 4 ∧
    candidateOf 4 5 16 16 (-1) 16 = none ∧ candidateOf 4 0 16 16 0 (-1) = some (-4) ∧
    ¬∃ i, AvailableAt s 0 (-4) i := by
  refine ⟨by decide, .inl rfl, recordsOrdered_of (by decide) (by decide), by decide, by decide, by decide, by decide, by decide, ?_, by decide,
    by decide, ?_⟩
  · exact ⟨by decide, by decide, ⟨_, rfl, by decide⟩, by decide, fun g h => by cases h⟩
  · rintro ⟨i, h, -⟩; revert h; decide

/-- Left of the first column, and above the last macroblock of the first row. -/
theorem witness_NeighAtEdges :
    (let s := full 8 0xFFFFFFF0 15
     NamesRecord s (s.u 1) (newRecord 8 8 0 false) ∧ (8 : Nat) % s.geo.picWidthInMbs.toNat = 0 ∧ s.s 2 = -16 ∧
     s.s 3 = 15 ∧ s.geo.mbaffFrameFlag = 0 ∧ s.halted = false) ∧
    (let s := full 3 15 0xFFFFFFF0
     NamesRecord s (s.u 1) (newRecord 3 3 0 false) ∧ 3 < s.geo.picWidthInMbs.toNat ∧ s.s 2 = 15 ∧ s.s 3 = -16) :=
  ⟨⟨.inl rfl, by decide, by decide, by decide, by decide, by decide⟩, .inl rfl, by decide, by decide, by decide⟩

theorem witness_NeighMbaff :
    let s := fieldPair 15 16
    s.halted = false ∧ (∃ m, NamesRecord s (s.u 1) m) ∧ RecordsOrdered s ∧ s.geo.mbaffFrameFlag ≠ 0 ∧
    s.geo.picWidthInMbs ≠ 0 ∧ s.s 2 = 15 ∧ s.s 3 = 16 ∧ (fieldPair 16 15).s 2 = 16 ∧ (fieldPair 16 15).s 3 = 15 :=
  ⟨by decide, ⟨_, .inr ⟨rfl, rfl⟩⟩, recordsOrdered_of (by decide) (by decide), by decide, by decide, by decide, by decide,
    by decide, by decide⟩

/-- The last block of each kind and one past it; the last position and one past it. -/
theorem witness_BlockPositions :
    let s := loaded (picture 7 []) [(1, 15), (2, 3), (3, 16), (4, 4), (5, 7), (6, 8)]
    s.halted = false ∧ (14 : Reg).val ≤ 14 ∧ s.geo.chromaArrayType ≠ 0 ∧ s.geo.chromaArrayType ≠ 3 ∧ s.u 1 = 15 ∧
    s.u 2 = 3 ∧ s.u 2 < s.geo.mbHeightC.toNat / 2 ∧ 15 < s.u 3 ∧ 3 < s.u 4 ∧ s.geo.mbHeightC.toNat / 2 ≤ s.u 4 ∧
    s.u 5 < s.geo.mbWidthC.toNat ∧ s.geo.mbWidthC.toNat ≤ s.u 6 ∧ State.reset.geo.chromaArrayType = 0 := by decide

theorem witness_BlockPositionsInverse :
    let s := loaded (picture 7 []) [(1, 3), (2, 7), (3, 7)]
    GeometryFits s ∧ s.halted = false ∧
    (∃ t, exec (.blk2xy .chroma4x4 14 1) s = .next t ∧ t.halted = false) ∧
    ∃ t, exec (.xy2blk .chroma4x4 4 2 3) s = .next t ∧ t.halted = false :=
  ⟨geometryFits_of rfl (by decide), by decide, ⟨_, rfl, by decide⟩, ⟨_, rfl, by decide⟩⟩

/-- The last position of `P_8x8` with a sub-type, without one, and of a direct type. -/
theorem witness_Xy2partResult :
    let s := fun t : State => loaded t [(2, 15), (3, 15)]
    (∃ m, NamesRecord (s (withSub 30 3 3)) 0 m ∧ SubTypeIs m 3 3) ∧
    (∃ m, NamesRecord (s (withSub 31 0 4)) 0 m ∧ m.type.val = 31 ∧ ¬∃ st, SubTypeIs m 0 st) ∧
    (∃ m, NamesRecord (s (alone 33)) 0 m ∧ m.type.val = 33) ∧ (s (alone 33)).u 2 = 15 ∧ (s (alone 33)).halted = false := by
  refine ⟨⟨_, .inr ⟨rfl, rfl⟩, ⟨_, rfl, rfl⟩, .inr ⟨.inl rfl, by decide⟩⟩, ⟨_, .inr ⟨rfl, rfl⟩, rfl, ?_⟩,
    ⟨_, .inr ⟨rfl, rfl⟩, rfl⟩, by decide, by decide⟩
  rintro ⟨st, ⟨u, hu, rfl⟩, h⟩
  obtain rfl : (4 : SubT) = u := Option.some.inj (Option.some.inj hu)
  revert h
  decide

/-! ### The residual encoder -/

/-- Block 0 has no neighbours: context 0. -/
theorem context_residual_0 : ContextIs residual .luma4x4 exampleMb 0 0 :=
  ⟨fun h => absurd h (by decide), fun _ => ⟨none, none, rfl, rfl, rfl⟩⟩

/-- Block 1 has block 0 on its left: context 5. -/
theorem context_residual_1 : ContextIs residual .luma4x4 exampleMb 1 5 := by
  refine ⟨fun h => absurd h (by decide), fun _ => ⟨some 5, none,
    ⟨by unfold IntraRegistersLegal; decide, exampleMb, 0, ⟨_, rfl, rfl, rfl⟩, ?_⟩, rfl, rfl⟩⟩
  refine ⟨fun h => ?_, fun _ h => ?_, fun _ h => ?_, fun _ => ⟨exampleBlock, rfl, rfl⟩⟩
  · revert h; unfold IntraBlocked; decide
  · revert h; decide
  · revert h; unfold HasResidual; decide

theorem mayEncode_residual (b : Nat) (hb : b ≤ 15) : MayEncode residual .luma4x4 b exampleMb :=
  ⟨rfl, .inl ⟨by decide, by simpa [Category.code] using hb⟩, by unfold TypeFits; decide⟩

/-- A context from one neighbour block, and the contexts of Chroma DC. -/
theorem witness_NcResult :
    residual.halted = false ∧ MayEncode residual .luma4x4 (residual.u 1) exampleMb ∧
    ContextIs residual .luma4x4 exampleMb (residual.u 1) 5 ∧
    MayEncode residual (.chromaDC .cr) (residual.u 0) exampleMb ∧
    ContextIs residual (.chromaDC .cr) exampleMb (residual.u 0) (-1) :=
  ⟨by decide, mayEncode_residual 1 (by decide), context_residual_1,
    ⟨rfl, by unfold NamesBlock; decide, by unfold TypeFits; decide⟩, fun _ => by decide, fun h => absurd rfl h⟩

/-- The family of the lowest context with its largest counts, the lowest context that faults, a pair no family has, and the
highest family with its largest counts. -/
theorem witness_CoefftokenAppends :
    let s := loaded (regs 0xFFFFFFFE 8 3) [(4, 0xFFFFFFFD), (5, 2), (6, 8), (7, 16)]
    s.halted = false ∧ s.params = Params.default ∧ FamilyIs (s.s 1) .cdc422 ∧ s.u 2 = 8 ∧ s.u 3 = 3 ∧ s.s 4 < -2 ∧
    (∃ word, (s.params.coeffTokenTable.family .cdc422).entry (s.u 2) (s.u 3) = some word) ∧
    (s.params.coeffTokenTable.family .cdc422).entry (s.u 5) (s.u 3) = none ∧ FamilyIs (s.s 6) .n8 ∧ s.u 7 = 16 :=
  ⟨by decide, rfl, .inl ⟨by decide, rfl⟩, by decide, by decide, by decide, ⟨_, rfl⟩, by decide,
    .inr (.inr (.inr (.inr (.inr ⟨by decide, rfl⟩)))), by decide⟩

theorem witness_TokenBoundaries :
    let s := loaded (regs 0 1 2) [(4, 3), (5, 4), (6, 7), (7, 8), (8, 0x7FFFFFFF)]
    s.halted = false ∧ s.u 9 = 0 ∧ 0 ≤ s.s 1 ∧ s.s 2 < 2 ∧ 2 ≤ s.s 3 ∧ s.s 4 < 4 ∧ 4 ≤ s.s 5 ∧ s.s 6 < 8 ∧ 8 ≤ s.s 7 ∧
    8 ≤ s.s 8 ∧ s.params.coeffTokenTable = Params.default.coeffTokenTable := by
  refine ⟨?_, ?_, ?_, ?_, ?_, ?_, ?_, ?_, ?_, ?_, rfl⟩ <;> decide

/-- The fewest and the most coefficients with zeros, one coefficient too many; the longest run. -/
theorem witness_TotalzerosRunbeforeAppend :
    let s := loaded (regs 15 1 16) [(4, 14), (5, 0)]
    let zeros := s.params.totalZerosTable.columns .max16
    s.halted = false ∧ s.params = Params.default ∧ 1 ≤ s.u 2 ∧ (∃ word, zeros.entry (s.u 2 - 1) (s.u 1) = some word) ∧
    zeros.entry (s.u 3 - 1) (s.u 1) = none ∧ s.u 4 ≤ s.u 1 ∧ s.u 4 ≤ 14 ∧ 6 < s.u 1 ∧
    (∃ word, CodeTable.entry s.params.runBeforeTable (min (s.u 1) 7 - 1) (s.u 4) = some word) ∧ s.u 5 = 0 ∧ 14 < s.u 1 :=
  ⟨by decide, rfl, by decide, ⟨_, rfl⟩, by decide, by decide, by decide, by decide, ⟨_, rfl⟩, by decide, by decide⟩

theorem residual_inRange : RecordsInRange residual := recordsInRange_of (by decide) rfl

/-- The block of R289, with the code R289 gives it. -/
theorem witness_ResblkEncodes :
    residual.halted = false ∧ MayEncode residual .luma4x4 (residual.u 0) exampleMb ∧
    ContextIs residual .luma4x4 exampleMb (residual.u 0) 0 ∧
    exampleMb.block (blockKey .luma4x4 (residual.u 0)) = some exampleBlock ∧
    exampleBlock.Consistent (maxCoeffOf residual .luma4x4) ∧ RecordsInRange residual ∧
    exampleBlock.CodedAs residual.params 0 (maxCoeffOf residual .luma4x4) (bin 0b000010001110010111101101 24) ∧
    residual.params = Params.default :=
  ⟨by decide, mayEncode_residual 0 (by decide), context_residual_0, rfl,
    ⟨by decide, by decide, fun _ _ => ⟨by decide,
      .inr ⟨by decide, .inr ⟨by decide, .inr ⟨by decide, .inr ⟨by decide, trivial⟩⟩⟩⟩⟩⟩, residual_inRange,
    ⟨.n0, _, _, .inr (.inr (.inl ⟨by decide, by decide, rfl⟩)), rfl, rfl, fun h => absurd h (by decide), fun _ _ =>
      ⟨_, _, rfl, ⟨fun h => absurd h (by decide), fun _ => ⟨_, _, rfl, ⟨fun h => absurd h (by decide), fun _ =>
        ⟨_, _, rfl, ⟨fun h => absurd h (by decide), fun _ => ⟨_, _, rfl, ⟨fun h => absurd h (by decide), fun _ =>
          ⟨_, _, rfl, rfl, rfl⟩⟩, rfl⟩⟩, rfl⟩⟩, rfl⟩⟩, rfl⟩⟩, rfl⟩

theorem witness_ResblkRepeats : ∃ t, exec (.resblk .luma4x4 0) residual = .next t ∧ t.halted = false := ⟨_, rfl, by decide⟩

/-- `P3`'s macroblock with blocks 1 and 2 and no block 0, on which both rely. -/
def countlessMb : MbRecord := { ((newRecord 0 0 0 false).setBlock 33 (freshBlock 0)).setBlock 34 (freshBlock 0) with cbp := 15 }

/-- `CUR` is that macroblock. -/
def countless : State := { residual with cur := some countlessMb }

/-- The block of R289 with more zeros than fit beside its coefficients. -/
def crowdedBlock : TransformBlock := { exampleBlock with totalZeros := 12 }

/-- `CUR` has that block 0. -/
def crowdedMb : MbRecord := exampleMb.setBlock 32 crowdedBlock

/-- `CUR` is that macroblock. -/
def crowded : State := { residual with cur := some crowdedMb }

/-- `CUR` of a state with `CHROMA_ARRAY_TYPE = 1` may encode any luma block of an `I_NxN` type. -/
theorem mayEncode_luma {s : State} {m : MbRecord} {b : Nat} (h : s.cur = some m) (ht : m.type = 0) (hb : b ≤ 15) :
    MayEncode s .luma4x4 b m :=
  ⟨h, .inl ⟨by decide, by simpa [Category.code] using hb⟩, by rw [ht]; unfold TypeFits; decide⟩

/-- No `CUR`; a block that is not valid; a count that is missing on the left, and one that is missing above where nothing
stands on the left; at the same two places the least flag and the least NAL unit type out of range; a block with
too many zeros; and a table that lacks the block's entries. -/
theorem witness_ResidualFaults :
    ((¬∃ m, MayEncode State.reset .luma4x4 0 m) ∧ State.reset.halted = false) ∧
    (MayEncode residual .luma4x4 1 exampleMb ∧ exampleMb.block (blockKey .luma4x4 1) = none) ∧
    (MayEncode countless .luma4x4 1 countlessMb ∧ blockXY (contextKind .luma4x4) 1 = (4, 0) ∧
      CountMissing countless .luma4x4 countlessMb (4 - 1) 0 ∧
      countlessMb.block (blockKey .luma4x4 1) = some (freshBlock 0)) ∧
    (MayEncode countless .luma4x4 2 countlessMb ∧ blockXY (contextKind .luma4x4) 2 = (0, 4) ∧
      Contributes countless .luma4x4 countlessMb (0 - 1) 4 none ∧ CountMissing countless .luma4x4 countlessMb 0 (4 - 1) ∧
      countlessMb.block (blockKey .luma4x4 2) = some (freshBlock 0)) ∧
    (MayEncode (residual.setConf constrainedIntraPredFlag 2) .luma4x4 1 exampleMb ∧
      RegisterCaught (residual.setConf constrainedIntraPredFlag 2) .luma4x4 exampleMb (4 - 1) 0) ∧
    (MayEncode (residual.setConf nalUnitType 32) .luma4x4 2 exampleMb ∧
      Contributes (residual.setConf nalUnitType 32) .luma4x4 exampleMb (0 - 1) 4 none ∧
      RegisterCaught (residual.setConf nalUnitType 32) .luma4x4 exampleMb 0 (4 - 1)) ∧
    (MayEncode crowded .luma4x4 0 crowdedMb ∧ crowdedMb.block (blockKey .luma4x4 0) = some crowdedBlock ∧
      ContextIs crowded .luma4x4 crowdedMb 0 0 ∧ RecordsInRange crowded ∧ crowded.halted = false ∧
      ¬crowdedBlock.Consistent (maxCoeffOf crowded .luma4x4)) ∧
    (¬∃ bits, exampleBlock.CodedAs { Params.default with runBeforeTable := [] } 0 16 bits) := by
  refine ⟨⟨(fun ⟨m, h, _⟩ => by cases h), by decide⟩, ⟨mayEncode_residual 1 (by decide), rfl⟩,
    ⟨mayEncode_luma rfl rfl (by decide), rfl, ⟨by unfold IntraRegistersLegal; decide, _, 0, ⟨_, rfl, rfl, rfl⟩, ?_, rfl⟩, rfl⟩,
    ⟨mayEncode_luma rfl rfl (by decide), rfl, rfl, ⟨by unfold IntraRegistersLegal; decide, _, 0, ⟨_, rfl, rfl, rfl⟩, ?_, rfl⟩,
      rfl⟩,
    ⟨mayEncode_luma rfl rfl (by decide), by unfold IntraRegistersLegal; decide, _, _, _, rfl, rfl, rfl⟩,
    ⟨mayEncode_luma rfl rfl (by decide), rfl, by unfold IntraRegistersLegal; decide, _, _, _, rfl, rfl, rfl⟩,
    ⟨mayEncode_luma rfl rfl (by decide), rfl, ⟨fun h => absurd h (by decide), fun _ => ⟨none, none, rfl, rfl, rfl⟩⟩,
      recordsInRange_of (by decide) rfl, by decide, ?_⟩, ?_⟩
  · unfold CountsTotalCoeff IntraBlocked HasResidual; decide
  · unfold CountsTotalCoeff IntraBlocked HasResidual; decide
  · intro h
    exact absurd (h.2.2 (by decide) (by decide)).1 (by decide)
  · rintro ⟨bits, cls, token, tail, -, -, -, -, h⟩
    obtain ⟨zeros, runs, -, ⟨-, h⟩, -⟩ := h (by decide) (by decide)
    obtain ⟨word, more, h, -⟩ := h (by decide)
    cases h

end Sys2Proof.Tests
end

section
/-!
Every step keeps the stores formed and the derived registers consistent (R8, R38, R40, R200, R202). What a step can do is
taken from `exec_next`; a predicate kept by each of those effects is kept by every step (`StepInvariant.step`), and the
two invariants follow by it.
-/

namespace Sys2Proof.Machine

/-! ## Invariants of a step -/

/-- A predicate that every effect of a step keeps: taking a word off the port, raising a fatal class, `SRESET`, and
retiring with what an instruction did. -/
structure StepInvariant (I : State → Prop) : Prop where
  port : ∀ {s : State} (p : List CommandWord), I s → I { s with port := p }
  raise : ∀ {s : State} {f : FaultClass}, s.halted = false → f ≠ .rangeWarning → I s → I (s.raise f)
  softReset : ∀ {s : State}, I s → I s.softReset
  retire : ∀ {i : Instr} {s u : State}, Did i s u → I s → I u.retire

/-- Every instruction keeps a step invariant. -/
theorem StepInvariant.exec {I : State → Prop} (inv : StepInvariant I) {i : Instr} {s t : State}
    (h : exec i s = .next t) (hs : I s) : I t := by
  rcases exec_next h with ⟨_, rfl⟩ | ⟨hrun, f, hf, rfl⟩ | ⟨_, rfl⟩ | ⟨u, did, rfl⟩
  · exact hs
  · exact inv.raise hrun hf hs
  · exact inv.softReset hs
  · exact inv.retire did hs

/-- A word that does not decode keeps a step invariant. -/
theorem StepInvariant.illegalWord {I : State → Prop} (inv : StepInvariant I) {s t : State}
    (h : s.illegalWord = .next t) (hs : I s) : I t := by
  rcases command_cases h with ⟨_, rfl⟩ | ⟨_, u, hu, _⟩ | ⟨hrun, f, hf, rfl⟩
  · exact hs
  · exact nomatch hu
  · exact inv.raise hrun (fatal_error (by decide) f hf) hs

/-- Every step keeps a step invariant. -/
theorem StepInvariant.step {I : State → Prop} (inv : StepInvariant I) {s t : State}
    (h : step s = .next t) (hs : I s) : I t := by
  cases hp : s.port with
  | nil =>
    simp only [Machine.step, takeCommand_nil hp] at h
    cases h
    exact hs
  | cons w rest =>
    simp only [Machine.step, takeCommand_cons hp] at h
    split at h
    · exact inv.exec h (inv.port rest hs)
    · exact inv.illegalWord h (inv.port rest hs)

/-! ## The stores (R8, R40, R202) -/

/-- An entry of the store after a write stands at the index written, or was there before. -/
theorem Memory.mem_write {m : Memory} {i : Nat} {v : Word} {e : Nat × Word} (h : e ∈ Memory.write m i v) :
    e.1 = i ∨ e ∈ m := by
  unfold Memory.write at h
  split at h
  · exact .inr (mem_dropEntry h)
  · exact (mem_setEntry h).imp_left (congrArg Prod.fst)

/-- `MAP` covers the picture (R192, R201). -/
@[simp] theorem length_expandMap (s : State) (mu : List GroupId) :
    (expandMap s mu).length = s.geo.picSizeInMbs.toNat := by
  simp [expandMap]

@[simp] theorem picSizeInMbs_withMap (s : State) (m : List GroupId) :
    (s.withMap m).geo.picSizeInMbs = s.geo.picSizeInMbs := by
  rw [State.geo_withMap]
  split <;> rfl

theorem StoresFormed.retire {s : State} (h : StoresFormed s) : StoresFormed s.retire := h

theorem StoresFormed.softReset (s : State) : StoresFormed s.softReset :=
  ⟨rfl, fun _ he => (List.not_mem_nil he).elim, (fun _ hm => nomatch hm), fun _ _ => Nat.zero_le _⟩

/-- `CFGWRA` stores within the array it names (R375). -/
theorem StoresFormed.setElement {s : State} (h : StoresFormed s) {a : ArrayId} {i : Nat} (v : Word)
    (hin : outsideArray s.params a i = false) : StoresFormed (s.setElement a i v) := by
  cases a
  case sliceGroupId =>
    obtain ⟨hwf, hids, hmap, hstore⟩ := h
    refine ⟨Memory.wf_write hwf i v, fun e he => ?_, hmap, hstore⟩
    rcases Memory.mem_write he with rfl | he
    · exact atMaxMbs_false.1 hin
    · exact hids e he
  all_goals exact h

/-- `SLICESTART` empties `MAP` and `MBSTORE` (R376). -/
theorem StoresFormed.openSlice {s : State} (h : StoresFormed s) (g : Geometry) : StoresFormed (s.openSlice g) := by
  obtain ⟨hwf, hids, _, _⟩ := h
  exact ⟨hwf, hids, (fun _ hm => nomatch hm), fun _ _ => Nat.zero_le _⟩

/-- `SGMAP` makes a total map of a picture within the capacity (R190, R202). -/
theorem StoresFormed.withMap {s : State} (h : StoresFormed s) (mu : List GroupId)
    (hcap : s.params.overMaxMbs s.geo.picSizeInMbs.toNat = false) :
    StoresFormed (s.withMap (expandMap s mu)) := by
  obtain ⟨hwf, hids, _, hstore⟩ := h
  refine ⟨hwf, hids, fun m hm => ?_, hstore⟩
  obtain rfl := Option.some.inj hm
  rw [picSizeInMbs_withMap, length_expandMap]
  exact ⟨rfl, overMaxMbs_false.1 hcap⟩

/-- `MBCOMMIT` appends while the store is below the capacity (R380). -/
theorem StoresFormed.commit {s : State} (h : StoresFormed s) (m : MbRecord)
    (hcap : s.params.atMaxMbs s.mbCount = false) :
    StoresFormed { s with mbstore := s.mbstore ++ [m], cur := none } := by
  obtain ⟨hwf, hids, hmap, _⟩ := h
  refine ⟨hwf, hids, hmap, ?_⟩
  rw [List.length_append, List.length_singleton]
  exact atMaxMbs_false.1 hcap

/-- What an instruction does keeps the stores formed. -/
theorem StoresFormed.did {i : Instr} {s u : State} (h : StoresFormed s) (did : Did i s u) : StoresFormed u := by
  cases did with
  | wrote _ e | emitted _ _ _ e => rw [e]; exact h
  | stored a ra rb hin => exact h.setElement _ hin
  | opened cfi => exact h.openSlice _
  | committed m _ hcap => exact h.commit m hcap
  | mapped mu _ hcap => exact h.withMap mu hcap
  | configured | began | setField | setSymbol | coded => exact h

theorem storesFormed_stepInvariant : StepInvariant StoresFormed where
  port _ h := h
  raise _ _ h := h
  softReset _ := StoresFormed.softReset _
  retire did h := (h.did did).retire

/-! ## The derived registers (R38, R200) -/

/-- `PIC_HEIGHT_IN_MBS` is the height in map units for frames of frame macroblocks and for fields, and twice it for the
other frames (R38). -/
theorem picHeightInMbs_cases {s : State} (hframe : (s.conf frameMbsOnlyFlag).toNat ≤ 1)
    (hfield : (s.conf fieldPicFlag).toNat ≤ 1) (hboth : ¬(s.conf fieldPicFlag = 1 ∧ s.conf frameMbsOnlyFlag = 1)) :
    picHeightInMbs s = (s.conf picHeightInMapUnitsMinus1).toNat + 1 ∨
      picHeightInMbs s = 2 * ((s.conf picHeightInMapUnitsMinus1).toNat + 1) := by
  have hboth' : ¬((s.conf fieldPicFlag).toNat = 1 ∧ (s.conf frameMbsOnlyFlag).toNat = 1) := fun ⟨h, k⟩ =>
    hboth ⟨BitVec.eq_of_toNat_eq h, BitVec.eq_of_toNat_eq k⟩
  unfold picHeightInMbs
  obtain hf | hf := Nat.le_one_iff_eq_zero_or_eq_one.1 hframe <;>
    obtain hp | hp := Nat.le_one_iff_eq_zero_or_eq_one.1 hfield <;> rw [hf, hp]
  · right; omega
  · left; omega
  · left; omega
  · exact absurd ⟨hp, hf⟩ hboth'

theorem toNat_picSizeWord {n : Nat} (h : n < 2 ^ 32) : (picSizeWord n).toNat = n := by
  rw [picSizeWord, if_pos h, BitVec.toNat_ofNat, Nat.mod_eq_of_lt h]

/-- The register never exceeds the product it stands for, whatever the free value is (log entry 11). -/
theorem toNat_picSizeWord_le (n : Nat) : (picSizeWord n).toNat ≤ n := by
  by_cases h : n < 2 ^ 32
  · exact (toNat_picSizeWord h).le
  · exact (picSizeWord n).isLt.le.trans (Nat.le_of_not_lt h)

theorem chromaArrayTypeOf_le {separate cfi : Nat} (h : cfi ≤ 3) : chromaArrayTypeOf separate cfi ≤ 3 := by
  unfold chromaArrayTypeOf
  split
  · exact Nat.zero_le 3
  · exact h

/-- The chroma array type and sizes of R38 fit each other. -/
theorem chromaSizes_fit {cat : Nat} (h : cat ≤ 3) :
    (BitVec.ofNat 32 cat).toNat ≤ 3 ∧
    (if cat = 0 then 0 else if cat = 3 then 16 else 8 : Word).toNat =
      (if BitVec.ofNat 32 cat = 0 then 0 else if BitVec.ofNat 32 cat = 3 then 16 else 8) ∧
    (if cat = 0 then 0 else if cat = 1 then 8 else 16 : Word).toNat =
      (if BitVec.ofNat 32 cat = 0 then 0 else if BitVec.ofNat 32 cat = 1 then 8 else 16) := by
  interval_cases cat <;> decide

/-- `MAP_UNITS_IN_SLICE_GROUP0` is a minimum with the map units (R200). -/
theorem mapUnitsInGroup0_le (s : State) : mapUnitsInGroup0 s ≤ s.geo.picSizeInMapUnits.toNat := Nat.min_le_right _ _

theorem GeometryFits.retire {s : State} (h : GeometryFits s) : GeometryFits s.retire := h

theorem GeometryFits.setElement {s : State} (h : GeometryFits s) (a : ArrayId) (i : Nat) (v : Word) :
    GeometryFits (s.setElement a i v) := by
  cases a <;> exact h

theorem GeometryFits.softReset (s : State) : GeometryFits s.softReset :=
  ⟨rfl, .inl rfl, fun _ => rfl, Nat.le_refl _, fun _ _ => Nat.zero_le _, Nat.le_refl _, Nat.zero_le _, rfl, rfl, Nat.zero_le _⟩

/-- `SGMAP` latches at most `MAP_UNITS_IN_SLICE_GROUP0` (R200). -/
theorem GeometryFits.withMap {s : State} (h : GeometryFits s) (m : List GroupId) : GeometryFits (s.withMap m) := by
  unfold State.withMap
  split
  · obtain ⟨harea, hheight, hsize, htwice, hcap, _, hchroma⟩ := h
    refine ⟨harea, hheight, hsize, htwice, hcap, ?_, hchroma⟩
    exact (BitVec.toNat_ofNat _ _).trans_le ((Nat.mod_le _ _).trans (mapUnitsInGroup0_le s))
  · exact h

/-- The registers `SLICESTART` latches fit together (R38, R376). -/
theorem latchedGeometry_fits {s : State} {cfi : Nat} (hcfi : cfi ≤ 3)
    (hframe : (s.conf frameMbsOnlyFlag).toNat ≤ 1) (hfield : (s.conf fieldPicFlag).toNat ≤ 1)
    (hside : (s.conf picWidthInMbsMinus1).toNat ≤ 65535 ∧ (s.conf picHeightInMapUnitsMinus1).toNat ≤ 65535)
    (harea : ((s.conf picWidthInMbsMinus1).toNat + 1) * ((s.conf picHeightInMapUnitsMinus1).toNat + 1) < 2 ^ 32)
    (hboth : ¬(s.conf fieldPicFlag = 1 ∧ s.conf frameMbsOnlyFlag = 1))
    (hcap : s.params.overMaxMbs (((s.conf picWidthInMbsMinus1).toNat + 1) * picHeightInMbs s) = false) :
    GeometryFits (s.openSlice (latchedGeometry s cfi)) := by
  have hheight := picHeightInMbs_cases hframe hfield hboth
  set w := (s.conf picWidthInMbsMinus1).toNat + 1 with hw
  set h := (s.conf picHeightInMapUnitsMinus1).toNat + 1 with hh
  have hsize := toNat_picSizeWord_le (w * picHeightInMbs s)
  have htwice : w * picHeightInMbs s ≤ 2 * (w * h) := by
    rw [Nat.mul_left_comm]
    exact Nat.mul_le_mul_left w (by omega)
  have hwidthWord : (BitVec.ofNat 32 w).toNat = w := Nat.mod_eq_of_lt (by omega)
  have hheightWord : (BitVec.ofNat 32 h).toNat = h := Nat.mod_eq_of_lt (by omega)
  have hareaWord : (BitVec.ofNat 32 (w * h)).toNat = w * h := Nat.mod_eq_of_lt harea
  have hmbsWord : (BitVec.ofNat 32 (picHeightInMbs s)).toNat = picHeightInMbs s := Nat.mod_eq_of_lt (by omega)
  obtain ⟨hcat, hwidthC, hheightC⟩ := chromaSizes_fit
    (chromaArrayTypeOf_le (separate := (s.conf separateColourPlaneFlag).toNat) hcfi)
  simp only [GeometryFits, State.geo_openSlice, latchedGeometry, ← hw, ← hh, hwidthWord, hheightWord, hareaWord,
    hmbsWord]
  refine ⟨trivial, hheight, toNat_picSizeWord, hsize.trans htwice, ?_, Nat.zero_le _, hcat, hwidthC, hheightC, ?_⟩
  · exact fun c hc => hsize.trans (overMaxMbs_false.1 hcap c hc)
  · split <;> decide

/-- What an instruction does keeps the derived registers consistent. -/
theorem GeometryFits.did {i : Instr} {s u : State} (h : GeometryFits s) (did : Did i s u) : GeometryFits u := by
  cases did with
  | wrote _ e | emitted _ _ _ e => rw [e]; exact h
  | stored a ra rb => exact h.setElement a _ _
  | opened cfi hcfi hframe hfield hside harea hboth hcap =>
    exact latchedGeometry_fits hcfi hframe hfield hside harea hboth hcap
  | mapped => exact h.withMap _
  | configured | began | setField | setSymbol | committed | coded => exact h

theorem geometryFits_stepInvariant : StepInvariant GeometryFits where
  port _ h := h
  raise _ _ h := h
  softReset _ := GeometryFits.softReset _
  retire did h := (h.did did).retire

/-- Settles O11: both predicates are kept by every effect a step can have, so by every step. -/
theorem storesAndGeometryKept : Obligations.StoresAndGeometryKept := by
  unfold Obligations.StoresAndGeometryKept
  exact fun _ _ h => ⟨storesFormed_stepInvariant.step h, geometryFits_stepInvariant.step h⟩

end Sys2Proof.Machine
end

section
/-!
Every step keeps the committed records and `CUR` at their slice-local index, with addresses that rise strictly inside
the picture (R41, R42, R44). The predicate sees only the positions of the records, and every effect but the opening of a
record and of a slice leaves those as they are.
-/

namespace Sys2Proof.Machine

/-! ## The list of records -/

theorem State.records_of_cur {s : State} {m : MbRecord} (h : s.cur = some m) : s.records = s.mbstore ++ [m] := by
  simp [State.records, h]

theorem State.records_of_no_cur {s : State} (h : s.cur = none) : s.records = s.mbstore := by
  simp [State.records, h]

/-- A slice-local index names a committed record or `CUR` (R160). -/
theorem State.record_cases {s : State} {m n : MbRecord} {i : Nat} (hcur : s.cur = some m)
    (hn : s.records[i]? = some n) : s.mbstore[i]? = some n ∨ (i = s.mbstore.length ∧ n = m) := by
  rw [State.records_of_cur hcur, List.getElem?_append] at hn
  split at hn
  · exact .inl hn
  · obtain ⟨hi, rfl⟩ := List.getElem?_eq_some_iff.1 hn
    rw [List.length_singleton] at hi
    exact .inr ⟨by omega, by simp⟩

theorem mem_records_of_cur {s : State} {m : MbRecord} (h : s.cur = some m) : m ∈ s.records := by
  simp [State.records_of_cur h]

/-- `MBCOMMIT` moves `CUR` behind the committed records, where it stood already (R42, R380). -/
theorem State.records_commit {s : State} {m : MbRecord} (h : s.cur = some m) :
    { s with mbstore := s.mbstore ++ [m], cur := none : State }.records = s.records := by
  rw [State.records_of_cur h, State.records_of_no_cur rfl]

@[simp] theorem records_openSlice (s : State) (g : Geometry) : (s.openSlice g).records = [] := rfl
@[simp] theorem records_softReset (s : State) : s.softReset.records = [] := rfl
@[simp] theorem records_withMap (s : State) (m : List GroupId) : (s.withMap m).records = s.records := rfl

@[simp] theorem records_setElement (s : State) (a : ArrayId) (i : Nat) (v : Word) :
    (s.setElement a i v).records = s.records := by
  cases a <;> rfl

/-! ## Positions -/

/-- What `RecordsOrdered` sees of the records: the index and the address of each. -/
def State.positions (s : State) : List (Word × Word) := s.records.map fun m => (m.idx, m.addr)

/-- A field of `CUR` other than index and address may change without moving a record. -/
theorem positions_replaceCur {s : State} {m m' : MbRecord} (h : s.cur = some m) (hidx : m'.idx = m.idx)
    (haddr : m'.addr = m.addr) : { s with cur := some m' : State }.positions = s.positions := by
  simp [State.positions, State.records, h, hidx, haddr]

theorem exists_record_of_positions_eq {s t : State} (h : t.positions = s.positions) {i : Nat} {m : MbRecord}
    (hm : t.records[i]? = some m) : ∃ n, s.records[i]? = some n ∧ n.idx = m.idx ∧ n.addr = m.addr := by
  have hpos : s.positions[i]? = some (m.idx, m.addr) := by rw [← h, State.positions, List.getElem?_map, hm]; rfl
  simpa [State.positions] using hpos

/-- `RecordsOrdered` is about positions and `PIC_SIZE_IN_MBS` only. -/
theorem RecordsOrdered.of_positions {s t : State} (h : RecordsOrdered s) (hpos : t.positions = s.positions)
    (hsize : t.geo.picSizeInMbs = s.geo.picSizeInMbs) : RecordsOrdered t := by
  obtain ⟨hplace, hrise⟩ := h
  refine ⟨fun i m hm => ?_, fun i j m n hij hm hn => ?_⟩
  · obtain ⟨m₀, hm₀, hidx, haddr⟩ := exists_record_of_positions_eq hpos hm
    rw [hsize, ← hidx, ← haddr]
    exact hplace i m₀ hm₀
  · obtain ⟨m₀, hm₀, -, hm⟩ := exists_record_of_positions_eq hpos hm
    obtain ⟨n₀, hn₀, -, hn⟩ := exists_record_of_positions_eq hpos hn
    rw [← hm, ← hn]
    exact hrise i j m₀ n₀ hij hm₀ hn₀

theorem RecordsOrdered.retire {s : State} (h : RecordsOrdered s) : RecordsOrdered s.retire := h

theorem recordsOrdered_of_no_records {s : State} (h : s.records = []) : RecordsOrdered s := by
  simp [RecordsOrdered, h]

theorem MbRecord.position_withField {m m' : MbRecord} {f : MbField} {v : Nat} (h : m.withField f v = .ok m') :
    m'.idx = m.idx ∧ m'.addr = m.addr := by
  cases f with
  | cbp =>
    simp only [MbRecord.withField, bind_ok] at h
    obtain ⟨_, _, _, _, h⟩ := h
    cases h
    exact ⟨rfl, rfl⟩
  | subMbType p =>
    simp only [MbRecord.withField] at h
    split at h
    · cases h
      exact ⟨rfl, rfl⟩
    · exact nomatch h
  | transform8x8 =>
    simp only [MbRecord.withField, bind_ok] at h
    obtain ⟨_, _, h⟩ := h
    cases h
    exact ⟨rfl, rfl⟩

/-! ## Opening a record (R377) -/

/-- An address that rises past the last committed record rises past every one of them (R44). -/
theorem RecordsOrdered.addr_lt_of_rising {s : State} (h : RecordsOrdered s) (hcur : s.cur = none) {a i : Nat}
    (ha : s.addrNotRising a = false) {m : MbRecord} (hm : s.mbstore[i]? = some m) : m.addr.toNat < a := by
  obtain ⟨-, hrise⟩ := h
  rw [State.records_of_no_cur hcur] at hrise
  obtain ⟨hi, -⟩ := List.getElem?_eq_some_iff.1 hm
  have hlast : s.mbstore.getLast? = some s.mbstore[s.mbstore.length - 1] := by
    rw [List.getLast?_eq_getElem?, List.getElem?_eq_getElem]
  have hle : s.mbstore[s.mbstore.length - 1].addr.toNat < a := by
    simpa [State.addrNotRising, hlast] using ha
  rw [List.getLast?_eq_getElem?] at hlast
  obtain hi | rfl := Nat.lt_or_eq_of_le (Nat.le_sub_one_of_lt hi)
  · exact (hrise i _ m _ hi hm hlast).trans hle
  · rw [hm] at hlast
    rwa [Option.some.inj hlast]

/-- `MBNEW` opens a record at the next index, with an address past all others and in the picture (R377). -/
theorem RecordsOrdered.openRecord {s : State} (h : RecordsOrdered s) (hcur : s.cur = none) {addr : Word} {t : MbT}
    {f : Bool} (hsize : addr.toNat < s.geo.picSizeInMbs.toNat) (hrising : s.addrNotRising addr.toNat = false) :
    RecordsOrdered { s with cur := some (newRecord s.mbCount addr t f) } := by
  have hlt := fun i m => h.addr_lt_of_rising hcur hrising (i := i) (m := m)
  obtain ⟨hplace, hrise⟩ := h
  rw [State.records_of_no_cur hcur] at hplace hrise
  refine ⟨fun i m hm => ?_, fun i j m n hij hm hn => ?_⟩
  · obtain hm | ⟨rfl, rfl⟩ := State.record_cases rfl hm
    · exact hplace i m hm
    · exact ⟨rfl, hsize⟩
  · obtain hm | ⟨rfl, rfl⟩ := State.record_cases rfl hm <;> obtain hn | ⟨rfl, rfl⟩ := State.record_cases rfl hn
    · exact hrise i j m n hij hm hn
    · exact hlt i m hm
    · have := (List.getElem?_eq_some_iff.1 hn).1
      omega
    · omega

/-- `RESBLK` and `NC` work on `CUR` (R261). -/
theorem residualOperand_cur {s : State} {c : Category} {r : Reg} {m : MbRecord} {b : Nat}
    (h : s.residualOperand c r = .ok (m, b)) : s.cur = some m := by
  simp only [State.residualOperand, bind_ok, State.curOperand, orRaise_ok] at h
  obtain ⟨_, hcur, _, _, _, _, h⟩ := h
  cases h
  exact hcur

/-! ## The invariant -/

/-- What an instruction does keeps the records in order. -/
theorem RecordsOrdered.did {i : Instr} {s u : State} (h : RecordsOrdered s) (did : Did i s u) : RecordsOrdered u := by
  cases did with
  | wrote _ e | emitted _ _ _ e => rw [e]; exact h
  | configured => exact h
  | stored a => exact h.of_positions (by simp [State.positions]) (by simp)
  | opened => exact recordsOrdered_of_no_records rfl
  | began f ra rb t hcur hsize hrising => exact h.openRecord hcur hsize hrising
  | setField f ra m m' hcur hset =>
    obtain ⟨hidx, haddr⟩ := MbRecord.position_withField hset
    exact h.of_positions (positions_replaceCur hcur hidx haddr) rfl
  | setSymbol c sym ra rb m b old hcur => exact h.of_positions (positions_replaceCur hcur rfl rfl) rfl
  | committed m hcur => exact h.of_positions (congrArg (List.map _) (State.records_commit hcur)) rfl
  | mapped => exact h.of_positions rfl (picSizeInMbs_withMap _ _)
  | coded c ra m b tb nC bits hop =>
    exact h.of_positions (s := s) (positions_replaceCur (residualOperand_cur hop) rfl rfl) rfl

theorem recordsOrdered_stepInvariant : StepInvariant RecordsOrdered where
  port _ h := h
  raise _ _ h := h
  softReset _ := recordsOrdered_of_no_records rfl
  retire did h := (h.did did).retire

/-- Settles O12: the only effect that adds a record gives it the next index and a higher address. -/
theorem recordsOrderedKept : Obligations.RecordsOrderedKept := by
  unfold Obligations.RecordsOrderedKept
  exact fun _ _ hs h => recordsOrdered_stepInvariant.step h hs

end Sys2Proof.Machine
end

section
/-!
Every step keeps the fields of records and TransformBlocks in their ranges (R43, R46), the stored `nC` included (R262).
-/

namespace Sys2Proof.Machine

/-! ## TransformBlocks (R46, R379) -/

theorem getElem?_replicate_zero {n w i : Nat} {v : BitVec w} (h : (Vector.replicate n (0 : BitVec w))[i]? = some v) :
    v = 0 := by
  obtain ⟨_, rfl⟩ := Vector.getElem?_eq_some_iff.1 h
  simp

/-- An element of a vector after a write is the one written or was there before. -/
theorem getElem?_setIfInBounds_cases {α : Type} {n i j : Nat} {v : Vector α n} {a b : α}
    (h : (v.setIfInBounds j a)[i]? = some b) : b = a ∨ v[i]? = some b := by
  rw [Vector.getElem?_setIfInBounds] at h
  split at h
  · split at h
    · exact .inl (Option.some.inj h).symm
    · exact nomatch h
  · exact .inr h

/-- A block whose `total_coeff` has just been set is in range (R379). -/
theorem freshBlock_inRange {n : Nat} (h : n ≤ 16) : (freshBlock n).InRange := by
  refine ⟨?_, Nat.zero_le _, fun i v hv => ?_, fun i v hv => ?_, fun _ h => nomatch h⟩
  · exact (BitVec.toNat_ofNat n 5).trans_le ((Nat.mod_le _ _).trans h)
  · simp [getElem?_replicate_zero hv]
  · simp [getElem?_replicate_zero hv]

/-- A symbol in its range keeps the block in range (R379). -/
theorem TransformBlock.InRange.withSymbol {b : TransformBlock} (h : b.InRange) {sym : TbSymbol} {v : Word}
    (hv : symbolOutOfRange sym v = false) : (b.withSymbol sym v).InRange := by
  obtain ⟨htotal, hzeros, hrun, hsize, hnC⟩ := h
  cases sym with
  | totalCoeff => exact freshBlock_inRange (by simpa [symbolOutOfRange] using hv)
  | trailingOnes | t1Sign | levelPrefix => exact ⟨htotal, hzeros, hrun, hsize, hnC⟩
  | levelSuffix e z =>
    refine ⟨htotal, hzeros, hrun, fun i n hn => ?_, hnC⟩
    obtain rfl | hn := getElem?_setIfInBounds_cases hn
    · simp [symbolOutOfRange] at hv
      omega
    · exact hsize i n hn
  | totalZeros =>
    refine ⟨htotal, ?_, hrun, hsize, hnC⟩
    have hv : v.toNat ≤ 15 := by simpa [symbolOutOfRange] using hv
    exact (BitVec.toNat_setWidth 5 v).trans_le ((Nat.mod_le _ _).trans hv)
  | runBefore e =>
    refine ⟨htotal, hzeros, fun i n hn => ?_, hsize, hnC⟩
    obtain rfl | hn := getElem?_setIfInBounds_cases hn
    · have hv : v.toNat ≤ 14 := by
        simp [symbolOutOfRange] at hv
        omega
      exact (BitVec.toNat_setWidth 5 v).trans_le ((Nat.mod_le _ _).trans hv)
    · exact hrun i n hn

/-! ## Records (R43, R377, R378) -/

theorem impliedCbp_le (t : MbT) : t.impliedCbp.toNat ≤ 47 := by
  revert t
  decide

/-- `MBNEW` opens a record with its fields in range (R377). -/
theorem newRecord_inRange (idx : Nat) (addr : Word) (t : MbT) (f : Bool) : (newRecord idx addr t f).InRange := by
  refine ⟨?_, fun ht => if_pos ht, rfl, fun _ _ h => nomatch h⟩
  simp only [newRecord]
  split
  · exact impliedCbp_le t
  · exact Nat.zero_le _

/-- `MBSET` keeps the fields in range: a `cbp` it takes is at most 47, and not that of an `I_16x16` type (R378). -/
theorem MbRecord.InRange.withField {m m' : MbRecord} (h : m.InRange) {f : MbField} {v : Nat}
    (hset : m.withField f v = .ok m') : m'.InRange ∧ m'.fieldCoded = m.fieldCoded := by
  obtain ⟨hcbp, himplied, hkeys, hblocks⟩ := h
  cases f with
  | cbp =>
    simp only [MbRecord.withField, bind_ok, raiseIf_ok, decide_eq_false_iff_not, not_lt] at hset
    obtain ⟨_, hv, _, ht, hset⟩ := hset
    cases hset
    refine ⟨⟨?_, fun h16 => absurd (ht.symm.trans h16) nofun, hkeys, hblocks⟩, rfl⟩
    exact (BitVec.toNat_ofNat v 6).trans_le ((Nat.mod_le _ _).trans hv)
  | subMbType p =>
    simp only [MbRecord.withField] at hset
    split at hset
    · cases hset
      exact ⟨⟨hcbp, himplied, hkeys, hblocks⟩, rfl⟩
    · exact nomatch hset
  | transform8x8 =>
    simp only [MbRecord.withField, bind_ok] at hset
    obtain ⟨_, _, hset⟩ := hset
    cases hset
    exact ⟨⟨hcbp, himplied, hkeys, hblocks⟩, rfl⟩

theorem MbRecord.block_setBlock {m : MbRecord} {k j : Nat} {b : TransformBlock} :
    (m.setBlock k b).block j = if j = k then some b else m.block j := by
  split
  · subst j
    exact entryAt_setEntry_same k b m.tbs
  · rename_i hne
    exact entryAt_setEntry_other b m.tbs hne

/-- A record stays in range with a block in range put in. -/
theorem MbRecord.InRange.setBlock {m : MbRecord} (h : m.InRange) (k : Nat) {b : TransformBlock} (hb : b.InRange) :
    (m.setBlock k b).InRange := by
  obtain ⟨hcbp, himplied, hkeys, hblocks⟩ := h
  refine ⟨hcbp, himplied, keysRise_setEntry hkeys, fun j a ha => ?_⟩
  rw [MbRecord.block_setBlock] at ha
  split at ha
  · exact Option.some.inj ha ▸ hb
  · exact hblocks j a ha

/-- The block a symbol is written to is in range before the write, unless the symbol makes it anew (R379). -/
theorem MbRecord.InRange.symbolTarget_withSymbol {m : MbRecord} (h : m.InRange) {k : Nat} {sym : TbSymbol} {v : Word}
    {old : TransformBlock} (hold : m.symbolTarget k sym v = .ok old) (hv : symbolOutOfRange sym v = false) :
    (old.withSymbol sym v).InRange := by
  obtain ⟨-, -, -, hblocks⟩ := h
  unfold MbRecord.symbolTarget at hold
  split at hold
  · rename_i hsym
    subst hsym
    exact freshBlock_inRange (by simpa [symbolOutOfRange] using hv)
  · exact (hblocks k old (orRaise_ok.1 hold)).withSymbol hv

/-! ## The context `nC` (R262, R264) -/

/-- A neighbour block counts at most 16 (R264). -/
theorem neighbourCount_le {s : State} {c : Category} {cur m : MbRecord} {b n : Nat} (hm : m.InRange)
    (h : s.neighbourCount c cur m b = .ok n) : n ≤ 16 := by
  obtain ⟨-, -, -, hblocks⟩ := hm
  simp only [State.neighbourCount, bind_ok] at h
  obtain ⟨_, _, h⟩ := h
  split_ifs at h
  case neg =>
    split at h
    · rename_i tb htb
      cases h
      exact (hblocks _ tb htb).1
    · exact nomatch h
  all_goals cases h; decide

theorem contribution_le {s : State} (hs : RecordsInRange s) {c : Category} {cur : MbRecord} {x y : Int} {n : Nat}
    (h : s.contribution c cur x y = .ok (some n)) : n ≤ 16 := by
  simp only [State.contribution, bind_ok] at h
  obtain ⟨o, -, h⟩ := h
  cases o with
  | none => exact nomatch h
  | some r =>
    simp only [bind_ok, orRaise_ok] at h
    obtain ⟨m, hm, k, hk, h⟩ := h
    cases h
    exact neighbourCount_le (hs m (List.mem_of_getElem? hm)).1 hk

theorem combine_le {nA nB : Option Nat} (hA : ∀ n, nA = some n → n ≤ 16) (hB : ∀ n, nB = some n → n ≤ 16) :
    combine nA nB ≤ 16 := by
  cases nA with
  | none =>
    cases nB with
    | none => exact Nat.zero_le _
    | some b => exact hB b rfl
  | some a =>
    cases nB with
    | none => exact hA a rfl
    | some b =>
      have ha := hA a rfl
      have hb := hB b rfl
      simp only [combine]
      omega

/-- The context is from -2 to 16 (R262). -/
theorem context_range {s : State} (hs : RecordsInRange s) {c : Category} {cur : MbRecord} {b : Nat} {nC : Int}
    (h : s.context c cur b = .ok nC) : -2 ≤ nC ∧ nC ≤ 16 := by
  cases c
  case chromaDC =>
    cases h
    split <;> decide
  all_goals
    simp only [State.context, bind_ok] at h
    obtain ⟨nA, hA, nB, hB, h⟩ := h
    cases h
    have hle : combine nA nB ≤ 16 := combine_le (fun n e => contribution_le hs (e ▸ hA))
      (fun n e => contribution_le hs (e ▸ hB))
    omega

/-- A context in range put in a block leaves the block in range. -/
theorem TransformBlock.InRange.withContext {b : TransformBlock} (h : b.InRange) {nC : Int} (hlow : -2 ≤ nC)
    (hhigh : nC ≤ 16) : ({ b with nC := some (BitVec.ofInt 32 nC) } : TransformBlock).InRange := by
  obtain ⟨htotal, hzeros, hrun, hsize, -⟩ := h
  refine ⟨htotal, hzeros, hrun, hsize, fun n hn => ?_⟩
  obtain rfl := Option.some.inj hn
  rw [BitVec.toInt_ofInt_eq_self (by decide) (by omega) (by omega)]
  exact ⟨hlow, hhigh⟩

/-! ## The invariant -/

theorem recordsInRange_of_no_records {s : State} (h : s.records = []) : RecordsInRange s := by
  simp [RecordsInRange, h]

/-- `RecordsInRange` is about the records and `MBAFF_FRAME_FLAG` only. -/
theorem RecordsInRange.of_records {s t : State} (h : RecordsInRange s) (hrec : t.records = s.records)
    (hmbaff : t.geo.mbaffFrameFlag = s.geo.mbaffFrameFlag) : RecordsInRange t := by
  unfold RecordsInRange
  rw [hrec, hmbaff]
  exact h

/-- A new `CUR` in range keeps the records in range. -/
theorem RecordsInRange.replaceCur {s : State} (h : RecordsInRange s) {m : MbRecord} (hm : m.InRange)
    (hfield : m.fieldCoded = true → s.geo.mbaffFrameFlag ≠ 0) : RecordsInRange { s with cur := some m } := by
  intro n hn
  rw [State.records_of_cur rfl, List.mem_append, List.mem_singleton] at hn
  obtain hn | rfl := hn
  · exact h n (List.mem_append_left _ hn)
  · exact ⟨hm, hfield⟩

theorem RecordsInRange.setBlock {s : State} (h : RecordsInRange s) {m : MbRecord} (hcur : s.cur = some m) (k : Nat)
    {b : TransformBlock} (hb : b.InRange) : RecordsInRange { s with cur := some (m.setBlock k b) } := by
  obtain ⟨hm, hfield⟩ := h m (mem_records_of_cur hcur)
  exact h.replaceCur (hm.setBlock k hb) hfield

theorem RecordsInRange.retire {s : State} (h : RecordsInRange s) : RecordsInRange s.retire := h

theorem mbaffFrameFlag_withMap (s : State) (m : List GroupId) :
    (s.withMap m).geo.mbaffFrameFlag = s.geo.mbaffFrameFlag := by
  rw [State.geo_withMap]
  split <;> rfl

/-- What an instruction does keeps the fields in range. -/
theorem RecordsInRange.did {i : Instr} {s u : State} (h : RecordsInRange s) (did : Did i s u) : RecordsInRange u := by
  cases did with
  | wrote _ e | emitted _ _ _ e => rw [e]; exact h
  | configured => exact h
  | stored a => exact h.of_records (by simp) (by simp)
  | opened => exact recordsInRange_of_no_records rfl
  | began f ra rb t _ _ _ hfield => exact h.replaceCur (newRecord_inRange _ _ t f) hfield
  | setField f ra m m' hcur hset =>
    obtain ⟨hm, hfield⟩ := h m (mem_records_of_cur hcur)
    obtain ⟨hm', hsame⟩ := hm.withField hset
    exact h.replaceCur hm' (hsame ▸ hfield)
  | setSymbol c sym ra rb m b old hcur _ hold hv =>
    obtain ⟨hm, -⟩ := h m (mem_records_of_cur hcur)
    exact h.setBlock hcur _ (hm.symbolTarget_withSymbol hold hv)
  | committed m hcur => exact h.of_records (State.records_commit hcur) rfl
  | mapped => exact h.of_records rfl (mbaffFrameFlag_withMap _ _)
  | coded c ra m b tb nC bits hop hblock hctx =>
    have hcur := residualOperand_cur hop
    obtain ⟨⟨-, -, -, hblocks⟩, -⟩ := h m (mem_records_of_cur hcur)
    obtain ⟨hlow, hhigh⟩ := context_range h hctx
    exact RecordsInRange.setBlock (s := s.emit bits) h hcur _ ((hblocks _ tb hblock).withContext hlow hhigh)

theorem recordsInRange_stepInvariant : StepInvariant RecordsInRange where
  port _ h := h
  raise _ _ h := h
  softReset _ := recordsInRange_of_no_records rfl
  retire did h := (h.did did).retire

/-- Settles O13: every command that writes a record checks the range of what it writes, and `RESBLK` stores a context
that is a mean of counts up to 16. -/
theorem recordsInRangeKept : Obligations.RecordsInRangeKept := by
  unfold Obligations.RecordsInRangeKept
  exact fun _ _ hs h => recordsInRange_stepInvariant.step h hs

end Sys2Proof.Machine
end

section
/-!
An instruction reads no general register but its sources (R22, R81). Beside the run of an instruction stands its run in
the state with other general registers `y`, the same off `r`. Every test and every value of a command is a function of
its sources and of what is no general register, so the two runs take the same branch, and each update of the state keeps
`SameOff r`.
-/

namespace Sys2Proof.Machine

/-! ## States that differ in one general register -/

/-- `t'` is `t` but for the value of `x[r]`. -/
inductive SameOff (r : Reg) (t : State) : State → Prop
  | mk (y : Vector Word 16) (h : ∀ q : Reg, q ≠ r → y[q] = t.x[q]) : SameOff r t { t with x := y }

/-- Two effects that raise the same class or end in states that differ at `r` at most. -/
inductive SameEffect (r : Reg) : Effect → Effect → Prop
  | ok {t t' : State} (h : SameOff r t t') : SameEffect r (.ok t) (.ok t')
  | error (f : FaultClass) : SameEffect r (.error f) (.error f)

/-- Two answers that are next states which differ at `r` at most. -/
def SameAnswer (r : Reg) (a a' : Answer) : Prop := ∃ t t', a = .next t ∧ a' = .next t' ∧ SameOff r t t'

namespace SameOff

variable {r : Reg} {t t' : State}

theorem setReg (h : SameOff r t t') (q : Reg) (v : Word) : SameOff r (t.setReg q v) (t'.setReg q v) := by
  obtain ⟨y, hy⟩ := h
  refine .mk (y.set q v) fun p hp => ?_
  rw [State.x_setReg, Fin.getElem_fin, Fin.getElem_fin, Vector.getElem_set, Vector.getElem_set]
  split
  · rfl
  · exact hy p hp

theorem setNat (h : SameOff r t t') (q : Reg) (n : Nat) : SameOff r (t.setNat q n) (t'.setNat q n) := h.setReg q _

theorem setResolved (h : SameOff r t t') (q : Reg) (n : Option Resolved) :
    SameOff r (t.setResolved q n) (t'.setResolved q n) := by
  cases n with
  | none => exact ((h.setReg _ _).setReg _ _).setReg _ _
  | some n => exact ((h.setNat _ _).setNat _ _).setNat _ _

theorem emit (h : SameOff r t t') (bits : Bits) : SameOff r (t.emit bits) (t'.emit bits) := by
  obtain ⟨y, hy⟩ := h
  exact .mk y hy

theorem setConf (h : SameOff r t t') (q : ConfReg) (v : Word) : SameOff r (t.setConf q v) (t'.setConf q v) := by
  obtain ⟨y, hy⟩ := h
  exact .mk y hy

theorem setElement (h : SameOff r t t') (a : ArrayId) (i : Nat) (v : Word) :
    SameOff r (t.setElement a i v) (t'.setElement a i v) := by
  obtain ⟨y, hy⟩ := h
  cases a <;> exact .mk y hy

theorem setCur (h : SameOff r t t') (m : Option MbRecord) :
    SameOff r { t with cur := m } { t' with cur := m } := by
  obtain ⟨y, hy⟩ := h
  exact .mk y hy

theorem commit (h : SameOff r t t') (m : MbRecord) :
    SameOff r { t with mbstore := t.mbstore ++ [m], cur := none }
      { t' with mbstore := t'.mbstore ++ [m], cur := none } := by
  obtain ⟨y, hy⟩ := h
  exact .mk y hy

theorem openSlice (h : SameOff r t t') (g : Geometry) : SameOff r (t.openSlice g) (t'.openSlice g) := by
  obtain ⟨y, hy⟩ := h
  exact .mk y hy

theorem withMap (h : SameOff r t t') (m : List GroupId) : SameOff r (t.withMap m) (t'.withMap m) := by
  obtain ⟨y, hy⟩ := h
  exact .mk y hy

theorem retire (h : SameOff r t t') : SameOff r t.retire t'.retire := by
  obtain ⟨y, hy⟩ := h
  exact .mk y hy

theorem raise (h : SameOff r t t') (f : FaultClass) : SameOff r (t.raise f) (t'.raise f) := by
  obtain ⟨y, hy⟩ := h
  exact .mk y hy

theorem refl (t : State) : SameOff r t t := .mk t.x fun _ _ => rfl

theorem halted (h : SameOff r t t') : t'.halted = t.halted := by
  obtain ⟨y, hy⟩ := h
  rfl

theorem reg (h : SameOff r t t') {q : Reg} (hq : q ≠ r) : t'.reg q = t.reg q := by
  obtain ⟨y, hy⟩ := h
  exact hy q hq

/-- A command answers alike where its effects are alike (R404, R405). -/
theorem command (h : SameOff r t t') {e e' : Effect} (he : SameEffect r e e') :
    SameAnswer r (t.command e) (t'.command e') := by
  unfold State.command
  rw [h.halted]
  split
  · exact ⟨t, t', rfl, rfl, h⟩
  · cases he with
    | ok hu => exact ⟨_, _, rfl, rfl, hu.retire⟩
    | error f => exact ⟨_, _, rfl, rfl, h.raise f⟩

end SameOff

/-- A sequence of tests whose first part is the same in both states. -/
theorem SameEffect.bind {r : Reg} {α : Type} (x : Except FaultClass α) {k k' : α → Effect}
    (h : ∀ a, SameEffect r (k a) (k' a)) : SameEffect r (x >>= k) (x >>= k') := by
  cases x with
  | ok a => exact h a
  | error f => exact .error f

/-! ## The instructions -/

section

variable {r : Reg} (s : State) (y : Vector Word 16) (hy : ∀ q : Reg, q ≠ r → y[q] = s.x[q])
include hy

theorem reg_sameOff {q : Reg} (hq : q ≠ r) : State.reg { s with x := y } q = State.reg s q := hy q hq

theorem u_sameOff {q : Reg} (hq : q ≠ r) : State.u { s with x := y } q = State.u s q :=
  congrArg BitVec.toNat (hy q hq)

theorem s_sameOff {q : Reg} (hq : q ≠ r) : State.s { s with x := y } q = State.s s q :=
  congrArg BitVec.toInt (hy q hq)

theorem recordOperand_sameOff {q : Reg} (hq : q ≠ r) :
    State.recordOperand { s with x := y } q = s.recordOperand q :=
  congrArg (fun n => orRaise .hostProtocolError (s.record n)) (u_sameOff s y hy hq)

theorem partOperand_sameOff {q : Reg} (hq : q ≠ r) : State.partOperand { s with x := y } q = s.partOperand q := by
  simp only [State.partOperand, u_sameOff s y hy hq]

theorem typeOperand_sameOff {q : Reg} (hq : q ≠ r) : State.typeOperand { s with x := y } q = s.typeOperand q := by
  simp only [State.typeOperand, u_sameOff s y hy hq]
  rfl

theorem blockOperand_sameOff (c : Category) {q : Reg} (hq : q ≠ r) :
    State.blockOperand { s with x := y } c q = s.blockOperand c q := by
  simp only [State.blockOperand, u_sameOff s y hy hq]
  rfl

theorem residualOperand_sameOff (c : Category) {q : Reg} (hq : q ≠ r) :
    State.residualOperand { s with x := y } c q = s.residualOperand c q := by
  simp only [State.residualOperand, blockOperand_sameOff s y hy c hq]
  rfl

/-- An instruction answers alike in both states when `r` is none of its sources. -/
theorem exec_sameOff (i : Instr) (hr : ∀ q ∈ i.sources, q ≠ r) :
    SameAnswer r (exec i s) (exec i { s with x := y }) := by
  have h : SameOff r s { s with x := y } := .mk y hy
  cases i
  case nop => exact h.command (.ok h)
  case ldi rd imm => exact h.command (.ok (h.setReg rd imm))
  case cfgrd n rd => exact ⟨_, _, rfl, rfl, (h.setReg rd _).retire⟩
  case statrd rd => exact ⟨_, _, rfl, rfl, (h.setReg rd _).retire⟩
  case sreset => exact ⟨_, _, rfl, rfl, .refl _⟩
  case slicestart =>
    exact h.command (.bind _ fun cfi => .bind _ fun _ => .bind _ fun _ => .bind _ fun _ => .bind _ fun _ =>
      .bind _ fun _ => .bind _ fun _ => .bind _ fun _ => .ok (h.openSlice (latchedGeometry s cfi)))
  case mbcommit => exact h.command (.bind _ fun m => .bind _ fun _ => .ok (h.commit m))
  case sgmap =>
    exact h.command (.bind _ fun _ => .bind _ fun _ => .bind _ fun _ => .bind _ fun _ => .bind (mapUnits s) fun mu =>
      .ok (h.withMap (expandMap s mu)))
  case mov rd ra =>
    refine h.command (.ok ?_)
    rw [reg_sameOff s y hy (hr ra (.head _))]
    exact h.setReg rd _
  case cfgwr n ra =>
    refine h.command (.ok ?_)
    rw [reg_sameOff s y hy (hr ra (.head _))]
    exact h.setConf n _
  case tu ra rb | fl ra rb =>
    refine h.command (.ok ?_)
    rw [u_sameOff s y hy (hr ra (.head _)), u_sameOff s y hy (hr rb (.tail _ (.head _)))]
    exact h.emit _
  case calm1 ra | levelpfx ra =>
    refine h.command (.ok ?_)
    rw [u_sameOff s y hy (hr ra (.head _))]
    exact h.emit _
  case cfgwra a ra rb =>
    refine h.command ?_
    simp only [reg_sameOff s y hy (hr ra (.head _)), u_sameOff s y hy (hr rb (.tail _ (.head _)))]
    exact .bind _ fun _ => .ok (h.setElement a _ _)
  case mbnew f ra rb =>
    refine h.command ?_
    simp only [reg_sameOff s y hy (hr ra (.head _)), u_sameOff s y hy (hr ra (.head _)),
      typeOperand_sameOff s y hy (hr rb (.tail _ (.head _)))]
    exact .bind _ fun _ => .bind _ fun _ => .bind _ fun _ => .bind _ fun _ => .bind _ fun _ => .bind _ fun _ =>
      .bind _ fun _ => .ok (h.setCur _)
  case mbset f ra =>
    refine h.command ?_
    simp only [u_sameOff s y hy (hr ra (.head _))]
    exact .bind _ fun _ => .bind _ fun _ => .ok (h.setCur _)
  case tbset c sym ra rb =>
    refine h.command ?_
    simp only [reg_sameOff s y hy (hr ra (.head _)), blockOperand_sameOff s y hy c (hr rb (.tail _ (.head _)))]
    exact .bind _ fun _ => .bind _ fun _ => .bind _ fun _ => .bind _ fun _ => .ok (h.setCur _)
  case expg signed reversed k ra =>
    refine h.command ?_
    simp only [s_sameOff s y hy (hr ra (.head _)), u_sameOff s y hy (hr ra (.head _))]
    exact .bind _ fun _ => .bind _ fun _ => .bind _ fun _ => .ok (h.emit _)
  case uegk signed k rd ra rb =>
    refine h.command ?_
    simp only [s_sameOff s y hy (hr ra (.head _)), u_sameOff s y hy (hr ra (.head _)),
      u_sameOff s y hy (hr rb (.tail _ (.head _)))]
    exact .bind _ fun _ => .bind _ fun _ => .ok ((h.emit _).setNat rd _)
  case mbtype rd ra =>
    refine h.command ?_
    simp only [u_sameOff s y hy (hr ra (.head _))]
    exact .bind _ fun _ => .bind _ fun _ => .ok ((h.emit _).setNat rd _)
  case submbtype ra =>
    refine h.command ?_
    simp only [u_sameOff s y hy (hr ra (.head _))]
    exact .bind _ fun _ => .bind _ fun _ => .ok (h.emit _)
  case cbp ra =>
    refine h.command ?_
    simp only [u_sameOff s y hy (hr ra (.head _))]
    exact .bind _ fun _ => .ok (h.emit _)
  case mbqpd ra =>
    refine h.command ?_
    simp only [s_sameOff s y hy (hr ra (.head _))]
    exact .bind _ fun _ => .ok (h.emit _)
  case isintra rd ra | isinter rd ra | numpart rd ra | partdim rd ra =>
    refine h.command ?_
    rw [recordOperand_sameOff s y hy (hr ra (.head _))]
    exact .bind _ fun m => .ok (h.setNat rd _)
  case partpred rd ra rb =>
    refine h.command ?_
    simp only [recordOperand_sameOff s y hy (hr ra (.head _)), partOperand_sameOff s y hy (hr rb (.tail _ (.head _)))]
    exact .bind _ fun _ => .bind _ fun _ => .ok (h.setNat rd _)
  case numsubpart rd ra rb | subpartpred rd ra rb | subpartdim rd ra rb =>
    refine h.command ?_
    simp only [recordOperand_sameOff s y hy (hr ra (.head _)), partOperand_sameOff s y hy (hr rb (.tail _ (.head _)))]
    exact .bind _ fun _ => .bind _ fun _ => .bind _ fun _ => .ok (h.setNat rd _)
  case maprd rd ra =>
    refine h.command ?_
    simp only [u_sameOff s y hy (hr ra (.head _))]
    exact .bind _ fun _ => .bind _ fun _ => .bind _ fun _ => .ok (h.setNat rd _)
  case neigh chroma o rd ra rb rc =>
    refine h.command ?_
    simp only [recordOperand_sameOff s y hy (hr ra (.head _)), s_sameOff s y hy (hr rb (.tail _ (.head _))),
      s_sameOff s y hy (hr rc (.tail _ (.tail _ (.head _))))]
    exact .bind _ fun _ => .bind _ fun cur => .bind (neighbour s cur chroma o _ _) fun n => .ok (h.setResolved rd n)
  case blk2xy kind rd ra =>
    refine h.command ?_
    simp only [u_sameOff s y hy (hr ra (.head _))]
    exact .bind _ fun _ => .bind _ fun _ => .bind _ fun _ => .ok ((h.setNat rd _).setNat _ _)
  case xy2blk kind rd ra rb =>
    refine h.command ?_
    simp only [u_sameOff s y hy (hr ra (.head _)), u_sameOff s y hy (hr rb (.tail _ (.head _)))]
    exact .bind _ fun _ => .bind _ fun _ => .ok (h.setNat rd _)
  case xy2part rd ra rb rc =>
    refine h.command ?_
    simp only [recordOperand_sameOff s y hy (hr ra (.head _)), u_sameOff s y hy (hr rb (.tail _ (.head _))),
      u_sameOff s y hy (hr rc (.tail _ (.tail _ (.head _))))]
    exact .bind _ fun _ => .bind _ fun _ => .bind _ fun _ => .bind _ fun _ => .ok ((h.setNat rd _).setNat _ _)
  case nc c rd ra =>
    refine h.command ?_
    rw [residualOperand_sameOff s y hy c (hr ra (.head _))]
    exact .bind _ fun op => .bind (s.context c op.1 op.2) fun _ => .ok (h.setReg rd _)
  case coefftoken ra rb rc =>
    refine h.command ?_
    simp only [s_sameOff s y hy (hr ra (.head _)), u_sameOff s y hy (hr rb (.tail _ (.head _))),
      u_sameOff s y hy (hr rc (.tail _ (.tail _ (.head _))))]
    exact .bind _ fun _ => .bind _ fun _ => .ok (h.emit _)
  case totalzeros c ra rb =>
    refine h.command ?_
    simp only [u_sameOff s y hy (hr ra (.head _)), u_sameOff s y hy (hr rb (.tail _ (.head _)))]
    exact .bind _ fun _ => .ok (h.emit _)
  case runbefore ra rb =>
    refine h.command ?_
    simp only [u_sameOff s y hy (hr ra (.head _)), u_sameOff s y hy (hr rb (.tail _ (.head _)))]
    exact .bind _ fun _ => .ok (h.emit _)
  case resblk c ra =>
    refine h.command ?_
    rw [residualOperand_sameOff s y hy c (hr ra (.head _))]
    exact .bind _ fun op => .bind _ fun _ => .bind (s.context c op.1 op.2) fun _ => .bind _ fun _ =>
      .ok ((h.emit _).setCur _)

end

/-- Settles O18: the run beside it takes the same tests and updates, so only `x[r]` can differ at the end. -/
theorem readsOnlySources : Obligations.ReadsOnlySources := by
  unfold Obligations.ReadsOnlySources
  intro i s t r v hr h
  have hy : ∀ q : Reg, q ≠ r → (s.x.set r v)[q] = s.x[q] := fun q hq =>
    Vector.getElem_set_ne _ _ fun e => hq (Fin.ext e.symm)
  obtain ⟨u, u', hu, hu', hsame⟩ := exec_sameOff s (s.x.set r v) hy i fun q hq e => hr (e ▸ hq)
  obtain rfl : u = t := by
    rw [hu] at h
    injection h
  obtain ⟨z, hz⟩ := hsame
  exact ⟨_, hu', rfl, hz⟩

end Sys2Proof.Machine
end

section
/-!
The word a step takes: what a well-formed instruction's word decodes to (R80 to R84), and that a word with a reserved
operation code decodes to nothing (R85). With it, what a step does with the word (R20, R24, R403).
-/

namespace Sys2Proof

/-! ## The modifiers and their codes (R82, R260, R378, R379) -/

theorem confRegOf_number (r : ConfReg) : confRegOf r.number = some r := by
  revert r
  decide

theorem readRegOf_number (r : ReadReg) : readRegOf r.number = some r := by
  cases r with
  | conf r => revert r; decide
  | derived r => revert r; decide
  | status | faultCmd | outLenLow | outLenHigh | mbCount | cmdCnt => rfl

theorem arrayOf_number (a : ArrayId) : arrayOf a.number = some a := by
  cases a <;> rfl

theorem fieldFlagOf_toNat (b : Bool) : fieldFlagOf (BitVec.ofNat 8 b.toNat) = some b := by
  cases b <;> rfl

theorem mbFieldOf_number (m : MbField) : mbFieldOf m.number = some m := by
  cases m with
  | cbp | transform8x8 => rfl
  | subMbType p => revert p; decide

theorem categoryOf_fn (c : Category) : categoryOf c.fn = some c := by
  cases c with
  | chromaDC k | chromaAC k => cases k <;> rfl
  | _ => rfl

theorem neighModeOf_fn (chroma : Bool) (o : FrameOverride) : neighModeOf (neighFn chroma o) = some (chroma, o) := by
  cases chroma <;> cases o <;> rfl

theorem kindOf_number (k : BlkKind) : kindOf k.number = some k := by
  cases k <;> rfl

theorem coeffClassOf_number (c : CoeffClass) : coeffClassOf c.number = some c := by
  cases c <;> rfl

theorem signedOf_golombFn (s r : Bool) (k : Fin 64) : signedOf (golombFn s r k) = s := by
  revert s r k
  decide

theorem reversedOf_golombFn (s r : Bool) (k : Fin 64) : reversedOf (golombFn s r k) = r := by
  revert s r k
  decide

theorem orderOf_golombFn (s r : Bool) (k : Fin 64) : orderOf (golombFn s r k) = k := by
  revert s r k
  decide

/-- A bit of a symbol's `imm` (R379). -/
theorem symbolImm_bit (s : BitVec 4) (e : BitVec 8) (z : BitVec 6) (i : Nat) :
    (symbolImm s e z).getLsbD i =
      if i < 4 then s.getLsbD i else if i < 8 then false else if i < 16 then e.getLsbD (i - 8)
      else if i < 22 then z.getLsbD (i - 16) else false := by
  change BitVec.getLsbD (w := 10 + 6 + 8 + 4 + 4) (0 ++ z ++ e ++ 0 ++ s) i = _
  simp only [BitVec.getLsbD_append, Nat.sub_sub, BitVec.ofNat_eq_ofNat, BitVec.getLsbD_zero]
  grind

/-- The fields of a symbol's `imm` (R379). -/
theorem symbolImm_fields (s : BitVec 4) (e : BitVec 8) (z : BitVec 6) :
    (symbolImm s e z).extractLsb' 0 4 = s ∧ (symbolImm s e z).extractLsb' 4 4 = 0 ∧
    (symbolImm s e z).extractLsb' 8 8 = e ∧ (symbolImm s e z).extractLsb' 16 6 = z ∧
    (symbolImm s e z).extractLsb' 22 10 = 0 := by
  refine ⟨?_, ?_, ?_, ?_, ?_⟩ <;>
    (apply BitVec.eq_of_getLsbD_eq
     intro i hi
     simp only [BitVec.getLsbD_extractLsb', symbolImm_bit, hi, decide_true, Bool.true_and, Nat.zero_add,
       BitVec.ofNat_eq_ofNat, BitVec.getLsbD_zero]
     grind)
theorem symbolOf_imm (sym : TbSymbol) : symbolOf sym.imm = some sym := by
  cases sym <;> simp [symbolOf, TbSymbol.imm, symbolImm_fields]

theorem regOf_ofReg (r : Reg) : regOf (ofReg r) = r := rfl

theorem withModifier_some {α : Type} {m : Option α} {a : α} (e : Reject) (k : α → Except Reject Instr)
    (h : m = some a) : withModifier m e k = k a := by
  rw [h]
  rfl

theorem withinFile_ok {i : Instr} (h : i.wellFormed = true) : withinFile i = .ok i := if_pos h

/-! ## Decoding an encoded instruction (R80 to R84) -/

/-- A well-formed instruction is decoded from its fields: a modifier is read back by the fact about its code above, a
multi-register result is inside the register file, and nothing else is tested. -/
theorem fields_decode {i : Instr} (h : i.wellFormed = true) : i.fields.decode = .ok i := by
  cases i with
  | cfgwr r => exact withModifier_some _ _ (confRegOf_number r)
  | cfgrd r => exact withModifier_some _ _ (readRegOf_number r)
  | cfgwra a => exact withModifier_some _ _ (arrayOf_number a)
  | mbnew f => exact withModifier_some _ _ (fieldFlagOf_toNat f)
  | mbset f => exact withModifier_some _ _ (mbFieldOf_number f)
  | tbset c sym =>
    exact (withModifier_some _ _ (categoryOf_fn c)).trans (withModifier_some _ _ (symbolOf_imm sym))
  | neigh c o => exact (withModifier_some _ _ (neighModeOf_fn c o)).trans (withinFile_ok h)
  | blk2xy k => exact (withModifier_some _ _ (kindOf_number k)).trans (withinFile_ok h)
  | xy2blk k => exact withModifier_some _ _ (kindOf_number k)
  | xy2part => exact withinFile_ok h
  | nc c | resblk c => exact withModifier_some _ _ (categoryOf_fn c)
  | totalzeros c => exact withModifier_some _ _ (coeffClassOf_number c)
  | expg signed reversed k ra =>
    change Except.ok (Instr.expg (signedOf (golombFn signed reversed k)) (reversedOf (golombFn signed reversed k))
      (orderOf (golombFn signed reversed k)) ra) = _
    rw [signedOf_golombFn, reversedOf_golombFn, orderOf_golombFn]
  | uegk signed k rd ra rb =>
    change (if reversedOf (golombFn signed false k) then Except.error Reject.reservedFn else
      .ok (Instr.uegk (signedOf (golombFn signed false k)) (orderOf (golombFn signed false k)) rd ra rb)) = _
    rw [signedOf_golombFn, reversedOf_golombFn, orderOf_golombFn]
    rfl
  | nop | ldi | mov | slicestart | mbcommit | statrd | sreset | tu | fl | mbtype | submbtype | cbp | mbqpd | calm1
  | isintra | isinter | numpart | partpred | partdim | numsubpart | subpartpred | subpartdim | sgmap | maprd
  | coefftoken | levelpfx | runbefore => rfl

/-- Decoding the word of a well-formed instruction gives it back. -/
theorem decode_encode {i : Instr} (h : i.wellFormed = true) : decode (encode i) = .ok i := by
  rw [decode, encode, Fields.ofWord_toWord, fields_decode h]

/-! ## Reserved operation codes (R85) -/

/-- Bits 63:56 of a word are its operation code (R80). -/
theorem op_ofWord (w : CommandWord) : (Fields.ofWord w).op.toNat = w.toNat / 2 ^ 56 := by
  have h : (Fields.ofWord w).op.toNat = w.toNat >>> 56 % 2 ^ 8 := BitVec.extractLsb'_toNat 56 8 w
  have hw := w.isLt
  rw [h, Nat.shiftRight_eq_div_pow]
  omega

/-- The reserved ranges of R85. -/
def ReservedOp (op : Nat) : Prop :=
  (0x0D ≤ op ∧ op ≤ 0x0F) ∨ (0x19 ≤ op ∧ op ≤ 0x1F) ∨ (0x28 ≤ op ∧ op ≤ 0x2F) ∨ (0x32 ≤ op ∧ op ≤ 0x3F) ∨
    (0x44 ≤ op ∧ op ≤ 0x4F) ∨ 0x56 ≤ op

/-- No row of the table of R84 has a reserved operation code. -/
theorem decode_reservedOp {w : CommandWord} (h : ReservedOp (w.toNat / 2 ^ 56)) : decode w = .error .reservedOp := by
  rw [← op_ofWord] at h
  unfold ReservedOp at h
  unfold decode Fields.decode
  split
  case h_43 => rfl
  all_goals omega

end Sys2Proof

namespace Sys2Proof.Machine

/-! ## What a step does with the word (R20, R24, R403) -/

theorem step_nil {s : State} (h : s.port = []) : step s = .next s := by
  simp [step, takeCommand_nil h]

theorem step_decoded {s : State} {w : CommandWord} {rest : List CommandWord} {i : Instr} (hp : s.port = w :: rest)
    (hw : decode w = .ok i) : step s = exec i { s with port := rest } := by
  simp [step, takeCommand_cons hp, hw]

theorem step_illegal {s : State} {w : CommandWord} {rest : List CommandWord} {e : Reject} (hp : s.port = w :: rest)
    (hw : decode w = .error e) : step s = State.illegalWord { s with port := rest } := by
  simp [step, takeCommand_cons hp, hw]

/-- The word of an instruction, issued by the host, stands first on the port (log entry 2). -/
theorem port_withFetchWord_encode (s : State) (i : Instr) :
    (s.withFetchWord 64 (encode i).toNat).port = encode i :: s.port.tail := by
  rw [State.withFetchWord, Nat.mod_eq_of_lt (encode i).isLt, BitVec.ofNat_toNat, BitVec.setWidth_eq]

/-- Settles O5: a reserved operation code does not decode, and a word that does not decode raises `IllegalCommand`. -/
theorem illegalWordRaises : Obligations.IllegalWordRaises := by
  unfold Obligations.IllegalWordRaises
  intro s w rest hrun hp op hw
  obtain ⟨e, he⟩ : ∃ e, decode w = .error e := hw.elim id fun h => ⟨_, decode_reservedOp h⟩
  have hrun' : State.halted { s with port := rest } = false := hrun
  exact ⟨_, (step_illegal hp he).trans (command_error hrun'), raise_raises nofun hrun'⟩

/-- Settles O4: `step` by the three cases of the port, and the word of a well-formed instruction decodes to it. -/
theorem stepRunsDecoded : Obligations.StepRunsDecoded := by
  unfold Obligations.StepRunsDecoded
  exact ⟨fun _ _ _ _ => step_decoded, fun _ => step_nil,
    fun s i h => step_decoded (port_withFetchWord_encode s i) (decode_encode h)⟩

end Sys2Proof.Machine
end

section
/-!
`OUTLEN` counts `OUT` (R50, R64), and what holds of the reset state (R56, R382).
-/

namespace Sys2Proof.Machine

/-! ## `OUTLEN` -/

theorem OutLenAgrees.retire {s : State} (h : OutLenAgrees s) : OutLenAgrees s.retire := h

/-- `OUTLEN` is about `OUT` and itself only. -/
theorem OutLenAgrees.of_out {s t : State} (h : OutLenAgrees s) (hout : t.out = s.out) (hlen : t.outLen = s.outLen) :
    OutLenAgrees t := by
  unfold OutLenAgrees
  rw [hout, hlen]
  exact h

/-- Appending bits adds their number to `OUTLEN` while the sum fits 64 bits (R64). -/
theorem OutLenAgrees.emit {s : State} (h : OutLenAgrees s) (bits : Bits) : OutLenAgrees (s.emit bits) := by
  intro hfits
  rw [State.out_emit, List.length_append] at hfits ⊢
  have hlen : s.outLen.toNat = s.out.length := h (by omega)
  rw [State.outLen_emit, outLenAfter_toNat (by omega), hlen]

/-- What an instruction does keeps `OUTLEN` the length of `OUT`. -/
theorem OutLenAgrees.did {i : Instr} {s u : State} (h : OutLenAgrees s) (did : Did i s u) : OutLenAgrees u := by
  cases did with
  | wrote _ e => rw [e]; exact h
  | emitted bits _ _ e => rw [e]; exact h.emit bits
  | coded c ra m b tb nC bits => exact h.emit bits
  | stored a => exact h.of_out (by simp) (by simp)
  | configured | opened | began | setField | setSymbol | committed | mapped => exact h

theorem outLenAgrees_reset : OutLenAgrees State.reset := fun _ => rfl

theorem outLenAgrees_stepInvariant : StepInvariant OutLenAgrees where
  port _ h := h
  raise _ _ h := h
  softReset _ := outLenAgrees_reset
  retire did h := (h.did did).retire

/-- Settles O10: only appending bits changes `OUT`, and it counts them in `OUTLEN`. -/
theorem outLenAgreesKept : Obligations.OutLenAgreesKept := by
  unfold Obligations.OutLenAgreesKept
  exact fun _ _ hs h => outLenAgrees_stepInvariant.step h hs

/-! ## The reset state (R56) -/

theorem getD_replicate_zero (n i : Nat) : (Vector.replicate n (0 : Word))[i]?.getD 0 = 0 := by
  rw [Vector.getElem?_replicate]
  split <;> rfl

theorem element_reset (a : ArrayId) (i : Nat) : State.reset.element a i = 0 := by
  cases a with
  | sliceGroupId => rfl
  | runLengthMinus1 | topLeft | bottomRight => exact getD_replicate_zero 8 i

theorem derived_reset (r : DerivedReg) : State.reset.geo.derived r = 0 := by
  revert r
  decide

/-- Settles O14: the reset state has no records, no map, no output and no fault, and every derived register is 0. -/
theorem invariantsAtReset : Obligations.InvariantsAtReset := by
  unfold Obligations.InvariantsAtReset
  exact ⟨.inl rfl, outLenAgrees_reset, .softReset .reset, .softReset .reset, recordsOrdered_of_no_records rfl,
    recordsInRange_of_no_records rfl⟩

/-- Settles O15: field by field, in the reset state and so after `SRESET`. -/
theorem resetValues : Obligations.ResetValues := by
  unfold Obligations.ResetValues
  exact ⟨fun _ => ⟨_, rfl, rfl⟩, State.isWritten_reset, State.conf_reset, element_reset, derived_reset, rfl, rfl, rfl,
    rfl, rfl, rfl, rfl, rfl, rfl⟩

end Sys2Proof.Machine
end

section
/-!
Where `NC` and `RESBLK` fault (R261, R264, R265, R280, R281, R300). The tests of the model are brought to the terms of
the statement one by one: the operands (R261), the count of a neighbour block (R264), its contribution (R263), the context
(R262), and the code of the block (R280 to R282).
-/

namespace Sys2Proof.Machine

/-! ## Tests that raise one class only -/

/-- The only class `x` raises is `f`. -/
def RaisesOnly {α : Type} (f : FaultClass) (x : Except FaultClass α) : Prop := ∀ g, x = .error g → g = f

section

variable {α β : Type} {f : FaultClass}

theorem raisesOnly_ok (a : α) : RaisesOnly f (.ok a : Except FaultClass α) := fun _ h => nomatch h

theorem raisesOnly_error : RaisesOnly f (.error f : Except FaultClass α) := fun _ h => (Except.error.inj h).symm

theorem raisesOnly_raiseIf {bad : Bool} : RaisesOnly f (raiseIf bad f) := fun _ h => (raiseIf_error.1 h).2

theorem raisesOnly_orRaise {o : Option α} : RaisesOnly f (orRaise f o) := fun _ h => (orRaise_error.1 h).2

theorem raisesOnly_bind {x : Except FaultClass α} {k : α → Except FaultClass β} (h : RaisesOnly f x)
    (hk : ∀ a, RaisesOnly f (k a)) : RaisesOnly f (x >>= k) := by
  intro g e
  rcases bind_error.1 e with e | ⟨a, _, e⟩
  · exact h g e
  · exact hk a g e

theorem raisesOnly_ite {p : Prop} [Decidable p] {x y : Except FaultClass α} (h : RaisesOnly f x) (k : RaisesOnly f y) :
    RaisesOnly f (if p then x else y) := by
  split <;> assumption

/-- The first part of a sequence of tests raises. -/
theorem error_first {x : Except FaultClass α} {k : α → Except FaultClass β} (h : x = .error f) :
    (x >>= k) = .error f := bind_error.2 (.inl h)

/-- The first part of a sequence of tests succeeds, and the rest raises. -/
theorem error_after {x : Except FaultClass α} {k : α → Except FaultClass β} {a : α} (h : x = .ok a)
    (hk : k a = .error f) : (x >>= k) = .error f := bind_error.2 (.inr ⟨a, h, hk⟩)

theorem RaisesOnly.error_of_not_ok {x : Except FaultClass α} (h : RaisesOnly f x) (hx : ∀ a, x ≠ .ok a) :
    x = .error f := by
  cases x with
  | ok a => exact absurd rfl (hx a)
  | error g => rw [h g rfl]

end

/-! ## The operands (R261) -/

theorem blockKey_eq_key (c : Category) (b : Nat) : blockKey c b = c.key b := by
  cases c <;> rfl

theorem namesBlock_iff {s : State} {c : Category} {b : Nat} :
    NamesBlock s c b ↔ c.legal s.chromaArrayType = true ∧ b < c.blocks s.chromaArrayType := by
  unfold NamesBlock State.chromaArrayType
  generalize s.geo.chromaArrayType.toNat = cat
  cases c with
  | chromaAC k =>
    simp [Category.code, Category.legal, Category.blocks]
    split <;> omega
  | _ => simp [Category.code, Category.legal, Category.blocks] <;> omega

theorem typeFits_iff {c : Category} {t : MbT} : TypeFits c t ↔ c.fitsType t = true := by
  unfold TypeFits
  cases c with
  | chromaDC k | chromaAC k => cases k <;> revert t <;> decide
  | _ => revert t; decide

theorem blockOperand_ok {s : State} {c : Category} {r : Reg} {b : Nat} :
    s.blockOperand c r = .ok b ↔ NamesBlock s c (s.u r) ∧ b = s.u r := by
  simp only [State.blockOperand, bind_ok, raiseIf_ok, namesBlock_iff, Except.ok.injEq, Bool.not_eq_false',
    decide_eq_false_iff_not, not_le]
  constructor
  · rintro ⟨_, hlegal, _, hlt, rfl⟩
    exact ⟨⟨hlegal, hlt⟩, rfl⟩
  · rintro ⟨⟨hlegal, hlt⟩, rfl⟩
    exact ⟨(), hlegal, (), hlt, rfl⟩

theorem residualOperand_ok {s : State} {c : Category} {r : Reg} {m : MbRecord} {b : Nat} :
    s.residualOperand c r = .ok (m, b) ↔ MayEncode s c (s.u r) m ∧ b = s.u r := by
  simp only [State.residualOperand, State.curOperand, bind_ok, raiseIf_ok, orRaise_ok, blockOperand_ok, MayEncode,
    typeFits_iff, Except.ok.injEq, Prod.mk.injEq, Bool.not_eq_false']
  constructor
  · rintro ⟨_, hcur, _, ⟨hblock, rfl⟩, _, hfits, rfl, rfl⟩
    exact ⟨⟨hcur, hblock, hfits⟩, rfl⟩
  · rintro ⟨⟨hcur, hblock, hfits⟩, rfl⟩
    exact ⟨m, hcur, s.u r, ⟨hblock, rfl⟩, (), hfits, rfl, rfl⟩

theorem residualOperand_raisesOnly (s : State) (c : Category) (r : Reg) :
    RaisesOnly .hostProtocolError (s.residualOperand c r) :=
  raisesOnly_bind raisesOnly_orRaise fun _ =>
    raisesOnly_bind (raisesOnly_bind raisesOnly_raiseIf fun _ => raisesOnly_bind raisesOnly_raiseIf fun _ =>
      raisesOnly_ok _) fun _ => raisesOnly_bind raisesOnly_raiseIf fun _ => raisesOnly_ok _

/-- Where a precondition of R261 fails, the operands raise `HostProtocolError`. -/
theorem residualOperand_error {s : State} {c : Category} {r : Reg} (h : ¬∃ m, MayEncode s c (s.u r) m) :
    s.residualOperand c r = .error .hostProtocolError :=
  (residualOperand_raisesOnly s c r).error_of_not_ok fun op hop => h ⟨op.1, (residualOperand_ok.1 hop).1⟩

/-! ## The count of a neighbour block (R264) -/

theorem intraRegistersLegal_iff {s : State} : s.intraRegistersLegal = true ↔ IntraRegistersLegal s := by
  simp [State.intraRegistersLegal, IntraRegistersLegal]

theorem intraBlocked_iff {s : State} {cur m : MbRecord} : s.intraBlocked cur m = true ↔ IntraBlocked s cur m := by
  simp [State.intraBlocked, IntraBlocked, Params.isIntra, Params.mbClass, and_assoc]

/-- The block positions the engine answers in luma geometry lie in the macroblock (R220). -/
theorem neighbour_luma_lt {s : State} {cur : MbRecord} {o : FrameOverride} {x y : Int} {n : Resolved}
    (h : neighbour s cur false o x y = .ok (some n)) : n.xW < 16 ∧ n.yW < 16 := by
  simp only [neighbour, bind_ok, Except.ok.injEq, Option.bind_eq_some_iff, Option.map_eq_some_iff, State.mbSize,
    Bool.false_eq_true, if_false] at h
  obtain ⟨_, _, _, _, _, _, a, _, i, _, rfl⟩ := h
  constructor <;> dsimp only <;> omega

theorem neighbourBlock_lt {s : State} {c : Category} {cur m : MbRecord} {x y : Int} {b : Nat}
    (h : NeighbourBlock s c cur x y m b) (hc : c.isChromaAC = false) : b < 16 := by
  obtain ⟨n, hn, -, rfl⟩ := h
  rw [hc] at hn
  obtain ⟨hx, hy⟩ := neighbour_luma_lt hn
  simp only [contextKind, hc, Bool.false_eq_true, if_false, blockAt]
  omega

theorem isChromaAC_iff {c : Category} : c.isChromaAC = true ↔ c.code = 10 := by
  cases c <;> simp [Category.isChromaAC, Category.code]

/-- A luma bit of the pattern, of the four that `cbp & 15` keeps (R264 row 5). -/
theorem getLsbD_and_fifteen (cbp : BitVec 6) {k : Nat} (h : k < 4) :
    (cbp &&& 15).getLsbD k = decide (cbp.toNat / 2 ^ k % 2 = 1) := by
  have h15 : (15 : BitVec 6).getLsbD k = true := by interval_cases k <;> rfl
  rw [BitVec.getLsbD_and, h15, Bool.and_true, BitVec.getLsbD, Nat.testBit_eq_decide_div_mod_eq]

/-- The test of the coded block pattern, as arithmetic on it (R264 row 5). -/
theorem noResidual_iff {c : Category} {m : MbRecord} {b : Nat} (hb : c.isChromaAC = false → b < 16) :
    noResidual c m b = true ↔ ¬HasResidual c m b := by
  unfold noResidual HasResidual
  split
  · rename_i hc
    simp [isChromaAC_iff.1 hc]
  · rename_i hc
    rw [getLsbD_and_fifteen m.cbp (by have := hb (by simpa using hc); omega)]
    simp [mt isChromaAC_iff.2 hc]

/-- The block that counts is found under its key (R264 row 6). -/
theorem contextCategory_key {c : Category} (hc : c.code ≠ 9) (t : MbT) (b : Nat) :
    (contextCategory c t.isI16x16).key b = countingKey c (decide (1 ≤ t.val ∧ t.val ≤ 24)) b := by
  change (contextCategory c (decide (1 ≤ t.val ∧ t.val ≤ 24))).key b = _
  cases c with
  | chromaDC k => exact absurd rfl hc
  | chromaAC k =>
    simp [contextCategory, Category.key, Category.tbIndex, countingKey, Category.code, Category.iCbCr, Nat.add_assoc]
  | _ => cases decide (1 ≤ t.val ∧ t.val ≤ 24) <;> rfl

/-- Where a register of R264 row 2 is out of range, the count raises `HostProtocolError` (log entry 14). -/
theorem neighbourCount_caught {s : State} (hreg : ¬IntraRegistersLegal s) (c : Category) (cur m : MbRecord) (b : Nat) :
    s.neighbourCount c cur m b = .error .hostProtocolError := by
  have hbad : s.intraRegistersLegal = false := Bool.eq_false_iff.2 (mt intraRegistersLegal_iff.1 hreg)
  exact error_first (raiseIf_error.2 ⟨congrArg not hbad, rfl⟩)

section

variable {s : State} {c : Category} {cur m : MbRecord} {b k : Nat} (hreg : IntraRegistersLegal s) (hc : c.code ≠ 9)
  (hb : c.isChromaAC = false → b < 16)
include hreg hc hb

/-- A block that counts gives its `total_coeff`, if that was set (R264 row 6). -/
theorem neighbourCount_of_counts (h : CountsTotalCoeff s c cur m b) :
    s.neighbourCount c cur m b =
      (orRaise .contextDerivationError (m.block (countingKey c (decide (1 ≤ m.type.val ∧ m.type.val ≤ 24)) b))).map
        fun tb => tb.totalCoeff.toNat := by
  obtain ⟨hblocked, hp, hs, hpcm, hres⟩ := h
  rw [← contextCategory_key hc]
  have hskip : ¬(m.type = pSkip ∨ m.type = bSkip) :=
    fun e => e.elim (hp <| congrArg Fin.val ·) (hs <| congrArg Fin.val ·)
  have hipcm : ¬m.type = iPcm := (hpcm <| congrArg Fin.val ·)
  simp only [State.neighbourCount, intraRegistersLegal_iff.2 hreg, Bool.not_true, raiseIf_false, ok_bind,
    intraBlocked_iff, noResidual_iff hb, hblocked, hskip, hipcm, hres, not_true_eq_false, if_false]
  cases m.block _ <;> rfl

/-- A block gives the number that R264 states for it, in the order of its rows 2 to 6. -/
theorem neighbourCount_of_countIs (h : CountIs s c cur m b k) : s.neighbourCount c cur m b = .ok k := by
  obtain ⟨hzero, hpcm, hnone, hcounts⟩ := h
  by_cases hcount : CountsTotalCoeff s c cur m b
  · obtain ⟨tb, htb, rfl⟩ := hcounts hcount
    rw [neighbourCount_of_counts hreg hc hb hcount, htb]
    rfl
  simp only [State.neighbourCount, intraRegistersLegal_iff.2 hreg, Bool.not_true, raiseIf_false, ok_bind]
  split_ifs with hblocked hskip ht hres
  · rw [hzero (.inl (intraBlocked_iff.1 hblocked))]
  · rw [hzero (.inr (hskip.imp (congrArg Fin.val) (congrArg Fin.val)))]
  · rw [hpcm (mt intraBlocked_iff.2 hblocked) (congrArg Fin.val ht)]
  · rw [hnone (ht <| Fin.ext ·) ((noResidual_iff hb).1 hres)]
  · obtain ⟨hp, hs⟩ := not_or.1 hskip
    exact absurd ⟨mt intraBlocked_iff.2 hblocked, (hp <| Fin.ext ·), (hs <| Fin.ext ·), (ht <| Fin.ext ·),
      not_not.1 (mt (noResidual_iff hb).2 hres)⟩ hcount

end

/-! ## Contributions (R263, R264) -/

theorem contribution_of_neighbourBlock {s : State} {c : Category} {cur m : MbRecord} {x y : Int} {b : Nat}
    (h : NeighbourBlock s c cur x y m b) :
    s.contribution c cur x y = s.neighbourCount c cur m b >>= fun k => .ok (some k) := by
  obtain ⟨n, hn, hm, rfl⟩ := h
  simp only [State.contribution, hn, ok_bind, State.record, hm, orRaise_some]

theorem contribution_of_contributes {s : State} {c : Category} (hc : c.code ≠ 9) {cur : MbRecord} {x y : Int}
    {o : Option Nat} (h : Contributes s c cur x y o) : s.contribution c cur x y = .ok o := by
  cases o with
  | none => exact bind_ok.2 ⟨none, h, rfl⟩
  | some k =>
    obtain ⟨hreg, m, b, hblock, hcount⟩ := h
    rw [contribution_of_neighbourBlock hblock, neighbourCount_of_countIs hreg hc (neighbourBlock_lt hblock) hcount,
      ok_bind]

theorem contribution_missing {s : State} {c : Category} (hc : c.code ≠ 9) {cur : MbRecord} {x y : Int}
    (h : CountMissing s c cur x y) : s.contribution c cur x y = .error .contextDerivationError := by
  obtain ⟨hreg, m, b, hblock, hcounts, hnone⟩ := h
  rw [contribution_of_neighbourBlock hblock, neighbourCount_of_counts hreg hc (neighbourBlock_lt hblock) hcounts, hnone]
  rfl

theorem contribution_caught {s : State} {c : Category} {cur : MbRecord} {x y : Int} (h : RegisterCaught s c cur x y) :
    s.contribution c cur x y = .error .hostProtocolError := by
  obtain ⟨hreg, m, b, hblock⟩ := h
  rw [contribution_of_neighbourBlock hblock, neighbourCount_caught hreg, error_bind]

/-! ## The context (R262) -/

/-- For every category but Chroma DC the context is made of the contributions of A and B (R262, R263). -/
theorem context_of_neighbours {s : State} {c : Category} (hc : c.code ≠ 9) (cur : MbRecord) (b : Nat) :
    s.context c cur b = (do
      let nA ← s.contribution c cur (((blockXY (contextKind c) b).1 : Int) - 1) (blockXY (contextKind c) b).2
      let nB ← s.contribution c cur (blockXY (contextKind c) b).1 (((blockXY (contextKind c) b).2 : Int) - 1)
      .ok (combine nA nB : Int)) := by
  cases c with
  | chromaDC k => exact absurd rfl hc
  | _ => rfl

/-- A fault at A, or at B after A contributed, is the fault of the context. -/
theorem context_error {s : State} {c : Category} (hc : c.code ≠ 9) {cur : MbRecord} {b : Nat} {f : FaultClass}
    {faulty : Int → Int → Prop} (hf : ∀ x y, faulty x y → s.contribution c cur x y = .error f)
    (h : faulty ((blockXY (contextKind c) b).1 - 1) (blockXY (contextKind c) b).2 ∨
      ((∃ nA, Contributes s c cur ((blockXY (contextKind c) b).1 - 1) (blockXY (contextKind c) b).2 nA) ∧
        faulty (blockXY (contextKind c) b).1 ((blockXY (contextKind c) b).2 - 1))) :
    s.context c cur b = .error f := by
  rw [context_of_neighbours hc]
  rcases h with hA | ⟨⟨nA, hA⟩, hB⟩
  · exact error_first (hf _ _ hA)
  · exact error_after (contribution_of_contributes hc hA) (error_first (hf _ _ hB))

theorem combined_iff {nA nB : Option Nat} {nC : Int} : Combined nA nB nC ↔ nC = combine nA nB := by
  cases nA <;> cases nB <;> rfl

theorem chromaArrayType_eq_one {s : State} : s.chromaArrayType = 1 ↔ s.geo.chromaArrayType = 1 :=
  BitVec.toNat_inj (x := s.geo.chromaArrayType) (y := 1)

theorem context_of_contextIs {s : State} {c : Category} {cur : MbRecord} {b : Nat} {nC : Int}
    (h : ContextIs s c cur b nC) : s.context c cur b = .ok nC := by
  obtain ⟨hdc, hrest⟩ := h
  by_cases hc : c.code = 9
  · rw [hdc hc]
    cases c with
    | chromaDC k =>
      simp only [State.context, chromaArrayType_eq_one]
    | _ => exact nomatch hc
  · obtain ⟨nA, nB, hA, hB, hcomb⟩ := hrest hc
    rw [context_of_neighbours hc, contribution_of_contributes hc hA, ok_bind, contribution_of_contributes hc hB,
      ok_bind, combined_iff.1 hcomb]

/-! ## The code of a block (R280 to R282) -/

theorem tokenClass_family {nC : Int} {cls : TokenClass} (h : tokenClass nC = some cls) : FamilyIs nC cls := by
  unfold tokenClass at h
  unfold FamilyIs
  split_ifs at h <;> cases h <;> simp only [reduceCtorEq, and_false, and_true, false_or, or_false] <;> omega

theorem maxNumCoeff_eq {s : State} {c : Category} {b : Nat} (h : NamesBlock s c b) :
    c.maxNumCoeff s.chromaArrayType = maxCoeffOf s c := by
  cases c with
  | chromaDC k =>
    obtain ⟨hlegal, -⟩ := namesBlock_iff.1 h
    have hcat : s.chromaArrayType = 1 ∨ s.chromaArrayType = 2 := by simpa [Category.legal] using hlegal
    change (if s.chromaArrayType = 2 then 8 else 4) = if s.geo.chromaArrayType = 1 then 4 else 8
    simp only [← chromaArrayType_eq_one]
    obtain h | h := hcat <;> rw [h] <;> rfl
  | _ => rfl

theorem runBefore_le {p : Params} {zl rb : Nat} {word : Bits} (h : p.runBefore zl rb = some word) : rb ≤ zl := by
  unfold Params.runBefore at h
  split at h
  · exact nomatch h
  · omega

/-- Runs that are coded fit the zeros, and their code is that of R280. -/
theorem runBits_ok {p : Params} {runs : List Nat} {zl : Nat} {bits : Bits} (h : runBits p runs zl = .ok bits) :
    RunsFit runs zl ∧ RunsCoded p runs zl bits := by
  induction runs generalizing zl bits with
  | nil => exact ⟨trivial, (Except.ok.inj h).symm⟩
  | cons r rest ih =>
    simp only [runBits] at h
    split at h
    · rename_i hz
      exact ⟨.inl hz, fun _ => (Except.ok.inj h).symm, fun hpos => absurd hz hpos.ne'⟩
    · rename_i hz
      simp only [bind_ok, orRaise_ok, Except.ok.injEq] at h
      obtain ⟨word, hword, more, hmore, rfl⟩ := h
      obtain ⟨hfit, hcoded⟩ := ih hmore
      exact ⟨.inr ⟨runBefore_le hword, hfit⟩, fun h0 => absurd h0 hz, fun _ => ⟨word, more, hword, hcoded, rfl⟩⟩

theorem runBits_raisesOnly (p : Params) (runs : List Nat) (zl : Nat) :
    RaisesOnly .contextDerivationError (runBits p runs zl) := by
  induction runs generalizing zl with
  | nil => exact raisesOnly_ok _
  | cons r rest ih =>
    exact raisesOnly_ite (raisesOnly_ok _)
      (raisesOnly_bind raisesOnly_orRaise fun _ => raisesOnly_bind (ih _) fun _ => raisesOnly_ok _)

namespace TransformBlock

variable {b : TransformBlock} {p : Params} {nC : Int} {max : Nat} {bits : Bits}

theorem zeroBits_raisesOnly (b : TransformBlock) (p : Params) (max : Nat) :
    RaisesOnly .contextDerivationError (b.zeroBits p max) :=
  raisesOnly_ite (raisesOnly_bind raisesOnly_raiseIf fun _ => raisesOnly_bind raisesOnly_orRaise fun _ =>
    raisesOnly_bind (runBits_raisesOnly _ _ _) fun _ => raisesOnly_ok _) (raisesOnly_ok _)

/-- Every check of a block and every absent entry raises `ContextDerivationError` (R281, R300). -/
theorem code_raisesOnly (b : TransformBlock) (p : Params) (nC : Int) (max : Nat) :
    RaisesOnly .contextDerivationError (b.code p nC max) :=
  raisesOnly_bind raisesOnly_raiseIf fun _ => raisesOnly_bind raisesOnly_raiseIf fun _ =>
    raisesOnly_bind raisesOnly_orRaise fun _ => raisesOnly_bind raisesOnly_orRaise fun _ =>
      raisesOnly_ite (raisesOnly_ok _) (raisesOnly_bind (zeroBits_raisesOnly b p max) fun _ => raisesOnly_ok _)

theorem zeroBits_full (h : ¬b.totalCoeff.toNat < max) : b.zeroBits p max = .ok [] := if_neg h

/-- The zeros and runs of a block with fewer coefficients than `max` (R280). -/
theorem zeroBits_ok (hlt : b.totalCoeff.toNat < max) (h : b.zeroBits p max = .ok bits) :
    b.totalZeros.toNat ≤ max - b.totalCoeff.toNat ∧ RunsFit b.runs b.totalZeros.toNat ∧
    ∃ zeros runs, p.totalZeros (coeffClassFor max) b.totalCoeff.toNat b.totalZeros.toNat = some zeros ∧
      RunsCoded p b.runs b.totalZeros.toNat runs ∧ bits = zeros ++ runs := by
  simp only [zeroBits, hlt, if_true, bind_ok, raiseIf_ok, orRaise_ok, Except.ok.injEq, decide_eq_false_iff_not,
    not_lt] at h
  obtain ⟨_, hzeros, zeros, hword, runs, hruns, rfl⟩ := h
  obtain ⟨hfit, hcoded⟩ := runBits_ok hruns
  exact ⟨hzeros, hfit, zeros, runs, hword, hcoded, rfl⟩

/-- A block that has a code passes the checks of R281, and the code is that of R280. -/
theorem code_ok (h : b.code p nC max = .ok bits) : b.Consistent max ∧ b.CodedAs p nC max bits := by
  simp only [code, bind_ok, raiseIf_ok, orRaise_ok, decide_eq_false_iff_not, not_lt, not_or] at h
  obtain ⟨_, hmax, _, ⟨-, ht1⟩, cls, hcls, token, htoken, h⟩ := h
  have hfam := tokenClass_family hcls
  split at h
  · rename_i h0
    cases h
    refine ⟨⟨hmax, ht1, fun hpos => absurd h0 hpos.ne'⟩, cls, bits, [], hfam, htoken, by simp [h0], fun _ => rfl,
      fun hpos => absurd h0 hpos.ne'⟩
  · rename_i h0
    simp only [bind_ok, Except.ok.injEq] at h
    obtain ⟨tail, htail, rfl⟩ := h
    by_cases hlt : b.totalCoeff.toNat < max
    · obtain ⟨hzeros, hfit, hcoded⟩ := zeroBits_ok hlt htail
      exact ⟨⟨hmax, ht1, fun _ _ => ⟨hzeros, hfit⟩⟩, cls, token, tail, hfam, htoken, rfl, fun h => by omega,
        fun _ _ => hcoded⟩
    · rw [zeroBits_full hlt] at htail
      cases htail
      exact ⟨⟨hmax, ht1, fun _ h => absurd h hlt⟩, cls, token, [], hfam, htoken, rfl, fun _ => rfl,
        fun _ h => absurd h hlt⟩

end TransformBlock

/-! ## The commands -/

theorem command_raises {s : State} (hrun : s.halted = false) {e : Effect} {f : FaultClass} (hf : f ≠ .rangeWarning)
    (he : e = .error f) : ∃ t, s.command e = .next t ∧ Raises f s t :=
  ⟨_, he ▸ command_error hrun, raise_raises hf hrun⟩

section

variable {s : State} (hrun : s.halted = false) {c : Category} {ra : Reg}
include hrun

theorem nc_raises_operand (rd : Reg) (h : s.residualOperand c ra = .error .hostProtocolError) :
    ∃ t, exec (.nc c rd ra) s = .next t ∧ Raises .hostProtocolError s t :=
  command_raises hrun nofun (error_first h)

theorem resblk_raises_operand (h : s.residualOperand c ra = .error .hostProtocolError) :
    ∃ t, exec (.resblk c ra) s = .next t ∧ Raises .hostProtocolError s t :=
  command_raises hrun nofun (error_first h)

variable {m : MbRecord} (hop : s.residualOperand c ra = .ok (m, s.u ra)) {f : FaultClass}
include hop

theorem nc_raises_context (rd : Reg) (hf : f ≠ .rangeWarning) (h : s.context c m (s.u ra) = .error f) :
    ∃ t, exec (.nc c rd ra) s = .next t ∧ Raises f s t :=
  command_raises hrun hf (error_after hop (error_first h))

theorem resblk_raises_block (h : m.block (blockKey c (s.u ra)) = none) :
    ∃ t, exec (.resblk c ra) s = .next t ∧ Raises .hostProtocolError s t := by
  rw [blockKey_eq_key] at h
  exact command_raises hrun nofun (error_after hop (error_first (orRaise_error.2 ⟨h, rfl⟩)))

variable {tb : TransformBlock} (htb : m.block (blockKey c (s.u ra)) = some tb)
include htb

theorem resblk_raises_context (hf : f ≠ .rangeWarning) (h : s.context c m (s.u ra) = .error f) :
    ∃ t, exec (.resblk c ra) s = .next t ∧ Raises f s t := by
  rw [blockKey_eq_key] at htb
  exact command_raises hrun hf (error_after hop (error_after (orRaise_ok.2 htb) (error_first h)))

theorem resblk_raises_code {nC : Int} (hctx : s.context c m (s.u ra) = .ok nC)
    (h : tb.code s.params nC (c.maxNumCoeff s.chromaArrayType) = .error .contextDerivationError) :
    ∃ t, exec (.resblk c ra) s = .next t ∧ Raises .contextDerivationError s t := by
  rw [blockKey_eq_key] at htb
  exact command_raises hrun nofun
    (error_after hop (error_after (orRaise_ok.2 htb) (error_after hctx (error_first h))))

end

/-- Settles O59: each fault of the statement is the class that the first failing test of the command raises. -/
theorem residualFaults : Obligations.ResidualFaults := by
  unfold Obligations.ResidualFaults
  intro c rd ra s hrun
  refine ⟨fun hno => ?_, fun m hm => ?_⟩
  · have hop := residualOperand_error hno
    exact ⟨nc_raises_operand hrun rd hop, resblk_raises_operand hrun hop⟩
  have hop : s.residualOperand c ra = .ok (m, s.u ra) := residualOperand_ok.2 ⟨hm, rfl⟩
  refine ⟨resblk_raises_block hrun hop, fun hc => ⟨fun hmissing => ?_, fun hcaught => ?_⟩,
    fun b nC hb hctx _ hbad => ?_⟩
  · have hctx := context_error hc (fun _ _ => contribution_missing hc) hmissing
    exact ⟨nc_raises_context hrun hop rd nofun hctx, fun b hb => resblk_raises_context hrun hop hb nofun hctx⟩
  · have hctx := context_error hc (fun _ _ => contribution_caught) hcaught
    refine ⟨nc_raises_context hrun hop rd nofun hctx, ?_⟩
    cases hb : m.block (blockKey c (s.u ra)) with
    | none => exact resblk_raises_block hrun hop hb
    | some b => exact resblk_raises_context hrun hop hb nofun hctx
  · obtain ⟨-, hnames, -⟩ := hm
    refine resblk_raises_code hrun hop hb (context_of_contextIs hctx) ?_
    rw [maxNumCoeff_eq hnames]
    refine (b.code_raisesOnly _ _ _).error_of_not_ok fun bits hbits => ?_
    obtain ⟨hgood, hcoded⟩ := TransformBlock.code_ok hbits
    exact hbad.elim (· hgood) (· ⟨bits, hcoded⟩)

end Sys2Proof.Machine
end

section
/-!
Which instruction may write which store and which register (R22, R26, R60, R66, R431): for each store, once, what an
effect of `Did` leaves in it. `exec_writesOwnStores` collects them for every instruction but `SRESET`, and both
statements are read off it.
-/

namespace Sys2Proof.Machine

/-! ## What an effect leaves in each store -/

section

variable {i : Instr} {s u : State}

/-- Only `CFGWR` writes a configuration register (R26, R373). -/
theorem Did.cfg_cases (did : Did i s u) : u.cfg = s.cfg ∨ ∃ r ra, i = .cfgwr r ra := by
  cases did with
  | configured r ra => exact .inr ⟨r, ra, rfl⟩
  | wrote _ e | emitted _ _ _ e => rw [e]; exact .inl rfl
  | stored => exact .inl (State.cfg_setElement ..)
  | opened | began | setField | setSymbol | committed | mapped | coded => exact .inl rfl

theorem element_congr {s t : State} (hrun : t.runLength = s.runLength) (htop : t.topLeft = s.topLeft)
    (hbottom : t.bottomRight = s.bottomRight) (hids : t.sliceGroupId = s.sliceGroupId) (a : ArrayId) (n : Nat) :
    t.element a n = s.element a n := by
  cases a <;> simp only [State.element, hrun, htop, hbottom, hids]

/-- Only `CFGWRA` writes an array (R61, R375). -/
theorem Did.element_cases (did : Did i s u) :
    (∀ a n, u.element a n = s.element a n) ∨ ∃ a ra rb, i = .cfgwra a ra rb := by
  cases did with
  | stored a ra rb => exact .inr ⟨a, ra, rb, rfl⟩
  | wrote _ e | emitted _ _ _ e => rw [e]; exact .inl (element_congr rfl rfl rfl rfl)
  | configured | opened | began | setField | setSymbol | committed | mapped | coded =>
    exact .inl (element_congr rfl rfl rfl rfl)

/-- Only `SLICESTART` and `SGMAP` write the derived registers and `MAP` (R38, R190, R376). -/
theorem Did.picture_cases (did : Did i s u) :
    (u.geo = s.geo ∧ u.map = s.map) ∨ i = .slicestart ∨ i = .sgmap := by
  cases did with
  | opened => exact .inr (.inl rfl)
  | mapped => exact .inr (.inr rfl)
  | wrote _ e | emitted _ _ _ e => rw [e]; exact .inl ⟨rfl, rfl⟩
  | stored => exact .inl ⟨State.geo_setElement .., State.map_setElement ..⟩
  | configured | began | setField | setSymbol | committed | coded => exact .inl ⟨rfl, rfl⟩

/-- `MBCOMMIT` appends a copy of `CUR` to `MBSTORE`, `SLICESTART` empties it (R66, R376, R380). -/
theorem Did.mbstore_cases (did : Did i s u) :
    u.mbstore = s.mbstore ∨ (i = .mbcommit ∧ ∃ m, s.cur = some m ∧ u.mbstore = s.mbstore ++ [m]) ∨
      (i = .slicestart ∧ u.mbstore = []) := by
  cases did with
  | committed m hcur => exact .inr (.inl ⟨rfl, m, hcur, rfl⟩)
  | opened => exact .inr (.inr ⟨rfl, rfl⟩)
  | wrote _ e | emitted _ _ _ e => rw [e]; exact .inl rfl
  | stored => exact .inl (State.mbstore_setElement ..)
  | configured | began | setField | setSymbol | mapped | coded => exact .inl rfl

/-- The operations that open, change, commit or discard `CUR` (R60). -/
theorem Did.cur_cases (did : Did i s u) :
    u.cur = s.cur ∨ i = .slicestart ∨ i = .mbcommit ∨ (∃ f ra rb, i = .mbnew f ra rb) ∨ (∃ f ra, i = .mbset f ra) ∨
      (∃ c y ra rb, i = .tbset c y ra rb) ∨ ∃ c ra, i = .resblk c ra := by
  cases did with
  | opened => exact .inr (.inl rfl)
  | committed => exact .inr (.inr (.inl rfl))
  | began f ra rb => exact .inr (.inr (.inr (.inl ⟨f, ra, rb, rfl⟩)))
  | setField f ra => exact .inr (.inr (.inr (.inr (.inl ⟨f, ra, rfl⟩))))
  | setSymbol c y ra rb => exact .inr (.inr (.inr (.inr (.inr (.inl ⟨c, y, ra, rb, rfl⟩)))))
  | coded c ra => exact .inr (.inr (.inr (.inr (.inr (.inr ⟨c, ra, rfl⟩)))))
  | wrote _ e | emitted _ _ _ e => rw [e]; exact .inl rfl
  | stored => exact .inl (State.cur_setElement ..)
  | configured | mapped => exact .inl rfl

/-- Only a coding operation writes `OUT`, and it appends (R60, R64, R66). -/
theorem Did.out_cases (did : Did i s u) : u.out = s.out ∨ (i.codes = true ∧ ∃ bits, u.out = s.out ++ bits) := by
  cases did with
  | emitted bits hcodes _ e => rw [e]; exact .inr ⟨hcodes, bits, rfl⟩
  | coded c ra m b tb nC bits => exact .inr ⟨rfl, bits, rfl⟩
  | wrote _ e => rw [e]; exact .inl rfl
  | stored => exact .inl (State.out_setElement ..)
  | configured | opened | began | setField | setSymbol | committed | mapped => exact .inl rfl

theorem registersKept_of_eq {s t : State} (hx : t.x = s.x) (hwritten : t.written = s.written) :
    RegistersKept [] s t := by
  simp [RegistersKept, State.reg, State.isWritten, hx, hwritten]

/-- An instruction writes the general registers of its destinations and no other (R22, R83). -/
theorem Did.registersKept (did : Did i s u) : RegistersKept i.dests s u := by
  cases did with
  | wrote k | emitted _ _ k => exact k
  | stored => exact registersKept_of_eq (State.x_setElement ..) (State.written_setElement ..)
  | configured | opened | began | setField | setSymbol | committed | mapped | coded =>
    exact registersKept_of_eq rfl rfl

/-- No instruction writes a parameter (R431) or the command words still issued (log entry 2). -/
theorem Did.port_params_eq (did : Did i s u) : u.port = s.port ∧ u.params = s.params := by
  cases did with
  | wrote _ e | emitted _ _ _ e => rw [e]; exact ⟨rfl, rfl⟩
  | stored => exact ⟨State.port_setElement .., State.params_setElement ..⟩
  | configured | opened | began | setField | setSymbol | committed | mapped | coded => exact ⟨rfl, rfl⟩

end

/-! ## What an instruction leaves in each store -/

/-- From `s` to `t` every store and register is as it was, unless `i` is one of those that may write it (R22, R60);
`MBSTORE` and `OUT` also changed the way R66 says. -/
structure WritesOwnStores (i : Instr) (s t : State) : Prop where
  cfg : t.cfg = s.cfg ∨ ∃ r ra, i = .cfgwr r ra
  element : (∀ a n, t.element a n = s.element a n) ∨ ∃ a ra rb, i = .cfgwra a ra rb
  picture : (t.geo = s.geo ∧ t.map = s.map) ∨ i = .slicestart ∨ i = .sgmap
  mbstore : t.mbstore = s.mbstore ∨ (i = .mbcommit ∧ ∃ m, s.cur = some m ∧ t.mbstore = s.mbstore ++ [m]) ∨
    (i = .slicestart ∧ t.mbstore = [])
  cur : t.cur = s.cur ∨ i = .slicestart ∨ i = .mbcommit ∨ (∃ f ra rb, i = .mbnew f ra rb) ∨
    (∃ f ra, i = .mbset f ra) ∨ (∃ c y ra rb, i = .tbset c y ra rb) ∨ ∃ c ra, i = .resblk c ra
  out : t.out = s.out ∨ (i.codes = true ∧ ∃ bits, t.out = s.out ++ bits)
  registers : ∀ r, r ∉ i.dests → t.reg r = s.reg r ∧ t.isWritten r = s.isWritten r
  inputs : t.port = s.port ∧ t.params = s.params

namespace WritesOwnStores

variable {i : Instr} {s t : State}

theorem refl (i : Instr) (s : State) : WritesOwnStores i s s :=
  ⟨.inl rfl, .inl fun _ _ => rfl, .inl ⟨rfl, rfl⟩, .inl rfl, .inl rfl, .inl rfl, fun _ _ => ⟨rfl, rfl⟩, rfl, rfl⟩

/-- Raising a fault writes none of the stores (R404). -/
theorem raise (i : Instr) (s : State) (f : FaultClass) : WritesOwnStores i s (s.raise f) :=
  ⟨.inl rfl, .inl (element_congr rfl rfl rfl rfl), .inl ⟨rfl, rfl⟩, .inl rfl, .inl rfl, .inl rfl,
    fun _ _ => ⟨rfl, rfl⟩, rfl, rfl⟩

theorem of_did (did : Did i s t) : WritesOwnStores i s t where
  cfg := did.cfg_cases
  element := did.element_cases
  picture := did.picture_cases
  mbstore := did.mbstore_cases
  cur := did.cur_cases
  out := did.out_cases
  registers r hr := by
    obtain ⟨hreg, hwritten⟩ := did.registersKept
    exact ⟨hreg r hr, by simp [hwritten, hr]⟩
  inputs := did.port_params_eq

/-- Counting a command writes none of the stores (R53). -/
theorem retire (h : WritesOwnStores i s t) : WritesOwnStores i s t.retire := { h with }

end WritesOwnStores

/-- Every instruction but `SRESET` writes its own stores only. -/
theorem exec_writesOwnStores {i : Instr} {s t : State} (h : exec i s = .next t) (hreset : i ≠ .sreset) :
    WritesOwnStores i s t := by
  rcases exec_next h with ⟨_, rfl⟩ | ⟨_, f, _, rfl⟩ | ⟨hi, _⟩ | ⟨u, did, rfl⟩
  · exact .refl i t
  · exact .raise i s f
  · exact absurd hi hreset
  · exact (WritesOwnStores.of_did did).retire

/-- Settles O17: a store that differs from before was written, so the instruction is one of its writers. -/
theorem writersOfEachStore : Obligations.WritersOfEachStore := by
  unfold Obligations.WritersOfEachStore
  intro i s t h hreset
  have w := exec_writesOwnStores h hreset
  refine ⟨w.cfg.resolve_left, fun ⟨a, n, hne⟩ => w.element.resolve_left fun heq => hne (heq a n),
    fun hne => w.picture.resolve_left fun ⟨hgeo, _⟩ => hne hgeo,
    fun hne => w.picture.resolve_left fun ⟨_, hmap⟩ => hne hmap, fun hne => ?_, w.cur.resolve_left,
    fun hne => (w.out.resolve_left hne).1, fun r hne => ?_, w.inputs⟩
  · exact (w.mbstore.resolve_left hne).symm.imp And.left And.left
  · by_contra hr
    obtain ⟨hreg, hwritten⟩ := w.registers r hr
    exact hne.elim (· hreg) (· hwritten)

/-- `SRESET` is never ignored and leaves the reset state (R382, R405). -/
theorem exec_sreset_next {s t : State} (h : exec .sreset s = .next t) : t = s.softReset := by
  injection h with h
  exact h.symm

/-- Settles O16: `SRESET` empties `MBSTORE`, and every other instruction writes `MBSTORE` and `OUT` in their own way
only. -/
theorem writtenOnce : Obligations.WrittenOnce := by
  unfold Obligations.WrittenOnce
  intro i s t h
  by_cases hreset : i = .sreset
  · subst hreset
    rw [exec_sreset_next h]
    exact ⟨.inr (.inr ⟨.inr rfl, rfl⟩), .inr rfl⟩
  · have w := exec_writesOwnStores h hreset
    refine ⟨w.mbstore.imp_right (.imp_right fun ⟨hi, hempty⟩ => ⟨.inl hi, hempty⟩), .inl ?_⟩
    rcases w.out with hout | ⟨_, hbits⟩
    · exact ⟨[], by rw [hout, List.append_nil]⟩
    · exact hbits

end Sys2Proof.Machine
end

section
/-!
The two round trips between words and instructions (R80 to R85, R89). Each modifier decoder answers only on the code of
its answer, so a word that decodes has the fields of its instruction.
-/

namespace Sys2Proof

/-! ## The code of a decoded modifier (R82, R260, R373, R374, R378) -/

/-- A bit vector whose value is the number `n` is the literal `n`. -/
theorem ofNat_of_toNat {n : Nat} {w : Nat} {b : BitVec w} (h : b.toNat = n) : BitVec.ofNat w n = b := by
  rw [← h, BitVec.ofNat_toNat, BitVec.setWidth_eq]

theorem number_of_confRegOf {fn : BitVec 8} {r : ConfReg} (h : confRegOf fn = some r) : r.number = fn := by
  unfold confRegOf at h
  split at h
  · cases h
    exact ofNat_of_toNat rfl
  · cases h

theorem number_of_readRegOf {fn : BitVec 8} {r : ReadReg} (h : readRegOf fn = some r) : r.number = fn := by
  unfold readRegOf at h
  split at h
  · cases h
    exact ofNat_of_toNat rfl
  split at h
  case isTrue hd =>
    cases h
    exact ofNat_of_toNat (by dsimp only; omega)
  split at h <;> cases h <;> exact ofNat_of_toNat ‹_›

theorem number_of_arrayOf {fn : BitVec 8} {a : ArrayId} (h : arrayOf fn = some a) : a.number = fn := by
  unfold arrayOf at h
  split at h <;> cases h <;> exact ofNat_of_toNat ‹_›

theorem toNat_of_fieldFlagOf {fn : BitVec 8} {b : Bool} (h : fieldFlagOf fn = some b) :
    BitVec.ofNat 8 b.toNat = fn := by
  unfold fieldFlagOf at h
  split at h <;> cases h <;> exact ofNat_of_toNat ‹_›

theorem number_of_mbFieldOf {fn : BitVec 8} {m : MbField} (h : mbFieldOf fn = some m) : m.number = fn := by
  unfold mbFieldOf at h
  split at h <;> cases h <;> exact ofNat_of_toNat ‹_›

theorem fn_of_categoryOf {fn : BitVec 8} {c : Category} (h : categoryOf fn = some c) : c.fn = fn := by
  unfold categoryOf at h
  split at h <;> cases h <;> exact ofNat_of_toNat ‹_›

theorem neighFn_of_neighModeOf {fn : BitVec 8} {m : Bool × FrameOverride} (h : neighModeOf fn = some m) :
    neighFn m.1 m.2 = fn := by
  unfold neighModeOf at h
  split at h <;> cases h <;> exact ofNat_of_toNat ‹_›

theorem number_of_kindOf {fn : BitVec 8} {k : BlkKind} (h : kindOf fn = some k) : k.number = fn := by
  unfold kindOf at h
  split at h <;> cases h <;> exact ofNat_of_toNat ‹_›

theorem number_of_coeffClassOf {fn : BitVec 8} {c : CoeffClass} (h : coeffClassOf fn = some c) : c.number = fn := by
  unfold coeffClassOf at h
  split at h <;> cases h <;> exact ofNat_of_toNat ‹_›

/-- Every `fn` is one of `EXPG` (R82). -/
theorem exists_golombFn (fn : BitVec 8) : ∃ signed reversed k, golombFn signed reversed k = fn :=
  ⟨signedOf fn, reversedOf fn, orderOf fn, by revert fn; decide⟩

/-! ## The `imm` of a decoded symbol (R379) -/

/-- An `imm` whose reserved bits are zero is made of its symbol id, element index and suffix size. -/
theorem symbolImm_of_reserved {imm : Word} (h4 : imm.extractLsb' 4 4 = 0) (h22 : imm.extractLsb' 22 10 = 0) :
    symbolImm (imm.extractLsb' 0 4) (imm.extractLsb' 8 8) (imm.extractLsb' 16 6) = imm := by
  apply BitVec.eq_of_getLsbD_eq
  intro i hi
  have hlow : 4 ≤ i → i < 8 → imm.getLsbD i = false := fun h h' => by
    have := congrArg (BitVec.getLsbD · (i - 4)) h4
    grind
  have hhigh : 22 ≤ i → imm.getLsbD i = false := fun h => by
    have := congrArg (BitVec.getLsbD · (i - 22)) h22
    grind
  simp only [symbolImm_bit, BitVec.getLsbD_extractLsb']
  grind

theorem imm_of_symbolOf {imm : Word} {sym : TbSymbol} (h : symbolOf imm = some sym) : sym.imm = imm := by
  unfold symbolOf at h
  dsimp only at h
  split at h
  · cases h
  case isFalse hres =>
    obtain ⟨h4, h22⟩ := not_or.1 hres
    have himm := symbolImm_of_reserved (not_not.1 h4) (not_not.1 h22)
    split at h
    case h_8 => cases h
    all_goals
      rename_i hs
      rw [← ofNat_of_toNat hs] at himm
    case h_5 =>
      cases h
      exact himm
    all_goals
      split at h
      case isFalse => cases h
    case h_1 hz | h_2 hz | h_6 hz =>
      cases h
      rwa [hz.1, hz.2] at himm
    case h_3 hz | h_4 hz | h_7 hz =>
      cases h
      rwa [hz] at himm

/-! ## The fields of a decoded instruction (R81, R83, R84) -/

theorem unused_ok {f : Fields} {names : List FieldName} {r : Except Reject Instr} {i : Instr}
    (h : f.unused names r = .ok i) : (∀ n ∈ names, f.isZero n = true) ∧ r = .ok i := by
  unfold Fields.unused at h
  split at h
  · exact ⟨List.all_eq_true.1 ‹_›, h⟩
  · cases h

/-- A modifier that is not rejected stands in the field as its own code. -/
theorem withModifier_code {α : Type} {n : Nat} {of : BitVec n → Option α} {code : α → BitVec n} {b : BitVec n}
    {e : Reject} {k : α → Except Reject Instr} {i : Instr} (hcode : ∀ {b a}, of b = some a → code a = b)
    (h : withModifier (of b) e k = .ok i) : ∃ a, k a = .ok i ∧ code a = b := by
  unfold withModifier at h
  split at h
  · exact ⟨_, h, hcode ‹_›⟩
  · cases h

theorem wellFormed_of_withinFile {i j : Instr} (h : withinFile j = .ok i) : j = i ∧ j.wellFormed = true := by
  unfold withinFile at h
  split at h
  · exact ⟨Except.ok.inj h, ‹_›⟩
  · cases h

/-- Fields that decode are the fields of the instruction, which is well-formed: in every row of the table of R84 the
operation code is the row's and each unused field is zero. The rows with a modifier, named below, have its code in the
field besides, and where the result takes several registers it is inside the register file. -/
theorem fields_of_decode {f : Fields} {i : Instr} (h : f.decode = .ok i) : i.wellFormed = true ∧ i.fields = f := by
  obtain ⟨op, rd, ra, rb, rc, fn, imm⟩ := f
  unfold Fields.decode at h
  dsimp only at h
  split at h
  case h_43 => cases h
  all_goals
    rename_i hop
    obtain rfl := ofNat_of_toNat hop
    obtain ⟨hz, h⟩ := unused_ok h
    simp only [List.forall_mem_cons, List.not_mem_nil, false_imp_iff, implies_true, and_true, Fields.isZero,
      beq_iff_eq] at hz
    simp only [hz]
  case h_4 => -- CFGWR
    obtain ⟨_, ⟨⟩, rfl⟩ := withModifier_code number_of_confRegOf h
    exact ⟨rfl, rfl⟩
  case h_5 => -- CFGRD
    obtain ⟨_, ⟨⟩, rfl⟩ := withModifier_code number_of_readRegOf h
    exact ⟨rfl, rfl⟩
  case h_6 => -- CFGWRA
    obtain ⟨_, ⟨⟩, rfl⟩ := withModifier_code number_of_arrayOf h
    exact ⟨rfl, rfl⟩
  case h_8 => -- MBNEW
    obtain ⟨_, ⟨⟩, rfl⟩ := withModifier_code toNat_of_fieldFlagOf h
    exact ⟨rfl, rfl⟩
  case h_9 => -- MBSET
    obtain ⟨_, ⟨⟩, rfl⟩ := withModifier_code number_of_mbFieldOf h
    exact ⟨rfl, rfl⟩
  case h_10 => -- TBSET
    obtain ⟨_, hsym, rfl⟩ := withModifier_code fn_of_categoryOf h
    obtain ⟨_, ⟨⟩, rfl⟩ := withModifier_code imm_of_symbolOf hsym
    exact ⟨rfl, rfl⟩
  case' h_14 => -- EXPG
    obtain ⟨signed, reversed, k, rfl⟩ := exists_golombFn fn
    rw [signedOf_golombFn, reversedOf_golombFn, orderOf_golombFn] at h
  case' h_22 => -- UEGK
    obtain ⟨signed, reversed, k, rfl⟩ := exists_golombFn fn
    rw [signedOf_golombFn, reversedOf_golombFn, orderOf_golombFn] at h
    cases reversed
    case true => cases h
  case h_33 => -- NEIGH
    obtain ⟨_, hin, rfl⟩ := withModifier_code (code := fun m => neighFn m.1 m.2) neighFn_of_neighModeOf h
    obtain ⟨rfl, hwf⟩ := wellFormed_of_withinFile hin
    exact ⟨hwf, rfl⟩
  case h_34 => -- BLK2XY
    obtain ⟨_, hin, rfl⟩ := withModifier_code number_of_kindOf h
    obtain ⟨rfl, hwf⟩ := wellFormed_of_withinFile hin
    exact ⟨hwf, rfl⟩
  case h_35 => -- XY2BLK
    obtain ⟨_, ⟨⟩, rfl⟩ := withModifier_code number_of_kindOf h
    exact ⟨rfl, rfl⟩
  case h_36 => -- XY2PART
    obtain ⟨rfl, hwf⟩ := wellFormed_of_withinFile h
    exact ⟨hwf, rfl⟩
  case h_37 | h_42 => -- NC and RESBLK
    obtain ⟨_, ⟨⟩, rfl⟩ := withModifier_code fn_of_categoryOf h
    exact ⟨rfl, rfl⟩
  case h_40 => -- TOTALZEROS
    obtain ⟨_, ⟨⟩, rfl⟩ := withModifier_code number_of_coeffClassOf h
    exact ⟨rfl, rfl⟩
  all_goals
    cases h
    exact ⟨rfl, rfl⟩

/-- A word that decodes is the word of its instruction. -/
theorem encode_of_decode {w : CommandWord} {i : Instr} (h : decode w = .ok i) :
    i.wellFormed = true ∧ encode i = w := by
  obtain ⟨hwf, hf⟩ := fields_of_decode h
  exact ⟨hwf, by rw [encode, hf, Fields.toWord_ofWord]⟩

end Sys2Proof

namespace Sys2Proof.Machine

/-! ## The statements -/

/-- Settles O1, by the fields of each instruction's word. -/
theorem decodeOfEncode : Obligations.DecodeOfEncode := by
  unfold Obligations.DecodeOfEncode
  exact fun _ => decode_encode

/-- Settles O2, by the row of the table that decodes the word. -/
theorem encodeOfDecode : Obligations.EncodeOfDecode := by
  unfold Obligations.EncodeOfDecode
  exact fun _ _ => encode_of_decode

/-- Settles O3: the words are the two encodings, and decode by the round trip of O1. -/
theorem wordsOfR89 : Obligations.WordsOfR89 := by
  unfold Obligations.WordsOfR89
  have hexpg : encode (.expg true false 2 3) = 0x1003000900000000 := by decide
  have hldi : encode (.ldi 5 0xFFFFFFFF) = 0x01500000FFFFFFFF := by decide
  exact ⟨hexpg, hexpg ▸ decode_encode rfl, hldi, hldi ▸ decode_encode rfl⟩

end Sys2Proof.Machine
end

section
/-!
The Exp-Golomb codes (R101 to R103), the decoder of R106 that inverts them, and `EXPG`, which appends them or overflows
(R100, R104).
-/

namespace Sys2Proof.Machine

/-! ## Bit strings (R10) -/

@[simp] theorem length_bin (v n : Nat) : (bin v n).length = n := by
  induction n with
  | zero => rfl
  | succ n ih => simp [bin, ih]

/-- Reading on through `bin v n` shifts what was read before by `n` places. -/
theorem foldl_bin (v n acc : Nat) :
    (bin v n).foldl (fun a b => 2 * a + b.toNat) acc = acc * 2 ^ n + v % 2 ^ n := by
  induction n generalizing acc with
  | zero => simp [bin, Nat.mod_one]
  | succ n ih =>
    rw [bin, List.foldl_cons, ih, Nat.toNat_testBit, pow_succ, Nat.mod_mul]
    ring

@[simp] theorem valueOf_bin (v n : Nat) : valueOf (bin v n) = v % 2 ^ n := by
  rw [valueOf, foldl_bin, Nat.zero_mul, Nat.zero_add]

/-! ## The zig-zag map (R101) -/

@[simp] theorem unzig_zigzag (v : Int) : unzig (zigzag v) = v := by
  unfold zigzag
  split <;> unfold unzig <;> split <;> omega

/-! ## The decoder (R106) -/

/-- The count stops at the terminator. -/
theorem countPrefix_rep (p : Bool) (m : Nat) (rest : Bits) :
    countPrefix p (rep p m ++ (!p) :: rest) = some (m, rest) := by
  induction m with
  | zero => simp [rep, countPrefix]
  | succ m ih =>
    rw [rep] at ih
    simp [rep, List.replicate_succ, countPrefix, ih]

/-- What the decoder reads of a run of `p`, a terminator, and the two strings of digits `as` and `bs`. -/
theorem decodeEg_word {m k : Nat} {as bs : Bits} (has : as.length = m) (hbs : bs.length = k) (p : Bool) (rest : Bits) :
    decodeEg k p (rep p m ++ (!p) :: (as ++ (bs ++ rest))) =
      some ((2 ^ m - 1 + valueOf as) * 2 ^ k + valueOf bs, rest) := by
  simp [decodeEg, countPrefix_rep, ← hbs, ← has]

/-- The digits of `q + 1` below its leading one give `q` back (R102). -/
theorem below_leading_bit (q : Nat) :
    2 ^ Nat.log2 (q + 1) - 1 + (q + 1) % 2 ^ Nat.log2 (q + 1) = q := by
  have hle : 2 ^ Nat.log2 (q + 1) ≤ q + 1 := Nat.log2_self_le (by omega)
  have hlt : q + 1 < 2 ^ (Nat.log2 (q + 1) + 1) := Nat.lt_log2_self
  rw [pow_succ] at hlt
  rw [Nat.mod_eq_sub_mod hle, Nat.mod_eq_of_lt (by omega)]
  omega

/-- The decoder inverts the order-`k` code, whatever follows the code word. -/
theorem decodeEg_eg_append (u k : Nat) (p : Bool) (rest : Bits) : decodeEg k p (eg u k p ++ rest) = some (u, rest) := by
  have hword := decodeEg_word (length_bin (u / 2 ^ k + 1) (Nat.log2 (u / 2 ^ k + 1))) (length_bin (u % 2 ^ k) k) p rest
  rw [valueOf_bin, valueOf_bin, below_leading_bit, Nat.mod_mod, Nat.div_add_mod'] at hword
  simpa [eg, eg0, Nat.shiftRight_eq_div_pow] using hword

theorem decodeEg_eg (u k : Nat) (p : Bool) : decodeEg k p (eg u k p) = some (u, []) := by
  simpa using decodeEg_eg_append u k p []

/-- A code word that begins another is that word: decoding the longer one answers both numbers. -/
theorem eq_of_eg_isPrefix {u w k : Nat} {p : Bool} (h : eg u k p <+: eg w k p) : u = w := by
  obtain ⟨rest, hrest⟩ := h
  have hu := decodeEg_eg_append u k p rest
  rw [hrest, decodeEg_eg] at hu
  injection hu with hu
  exact (congrArg Prod.fst hu).symm

/-- Settles O31, by what the decoder reads of a code word; no word begins another, as it finds where the word ends. -/
theorem golombRoundTrip : Obligations.GolombRoundTrip := by
  unfold Obligations.GolombRoundTrip
  refine ⟨decodeEg_eg_append, fun _ _ _ _ => eq_of_eg_isPrefix, fun v p => ?_⟩
  rw [decodeEg_eg, Option.map_some, unzig_zigzag]

/-! ## Tests that pass and tests that fail -/

/-- A command whose effect succeeds completes. -/
theorem command_completes {s t : State} (hrun : s.halted = false) {e : Effect} (he : e = .ok t) :
    s.command e = .next t.retire := he ▸ command_ok hrun

theorem raiseIf_of_not {f : FaultClass} {p : Prop} [Decidable p] (h : ¬p) : raiseIf (decide p) f = .ok () :=
  raiseIf_ok.2 (decide_eq_false h)

theorem raiseIf_of {f : FaultClass} {p : Prop} [Decidable p] (h : p) : raiseIf (decide p) f = .error f :=
  raiseIf_error.2 ⟨decide_eq_true h, rfl⟩

/-- The first part of a sequence of tests succeeds, and so does the rest. -/
theorem ok_after {α β : Type} {x : Except FaultClass α} {k : α → Except FaultClass β} {a : α} {b : β}
    (h : x = .ok a) (hk : k a = .ok b) : (x >>= k) = .ok b := bind_ok.2 ⟨a, h, hk⟩

/-! ## `EXPG` (R100, R104) -/

/-- The number that `EXPG` encodes: its operand, zig-zag mapped where signed (R100). -/
def expgNumber (signed : Bool) (ra : Reg) (s : State) : Nat := if signed then zigzag (s.s ra) else s.u ra

/-- Some overflow test of `EXPG` fails on the order `k` and the number `u` (R100). -/
def ExpgOverflow (k u : Nat) : Prop := 31 < k ∨ maxWord < u ∨ maxWord < (u >>> k) + 1

theorem expg_emits {signed : Bool} {k : Fin 64} {ra : Reg} {s : State} (reversed : Bool) (hrun : s.halted = false)
    (h : ¬ExpgOverflow k.val (expgNumber signed ra s)) :
    exec (.expg signed reversed k ra) s = .next (s.emit (eg (expgNumber signed ra s) k.val reversed)).retire := by
  rw [ExpgOverflow, not_or, not_or] at h
  obtain ⟨hk, hu, hq⟩ := h
  exact command_completes hrun (ok_after (raiseIf_of_not hk)
    (ok_after (raiseIf_of_not hu) (ok_after (raiseIf_of_not hq) rfl)))

theorem expg_raises {signed : Bool} {k : Fin 64} {ra : Reg} {s : State} (reversed : Bool) (hrun : s.halted = false)
    (h : ExpgOverflow k.val (expgNumber signed ra s)) :
    ∃ t, exec (.expg signed reversed k ra) s = .next t ∧ Raises .arithmeticOverflow s t := by
  refine command_raises hrun nofun ?_
  by_cases hk : 31 < k.val
  · exact error_first (raiseIf_of hk)
  refine error_after (raiseIf_of_not hk) ?_
  by_cases hu : maxWord < expgNumber signed ra s
  · exact error_first (raiseIf_of hu)
  refine error_after (raiseIf_of_not hu) ?_
  have hq := (h.resolve_left hk).resolve_left hu
  exact error_first (raiseIf_of hq)

/-- Of the words, only -2^31 has a zig-zag image of more than 32 bits (R104 (a)). -/
theorem maxWord_lt_zigzag_iff {ra : Reg} {s : State} : maxWord < zigzag (s.s ra) ↔ s.s ra = -2 ^ 31 := by
  have hlo : -2 ^ 31 ≤ s.s ra := (s.reg ra).le_toInt
  have hhi : s.s ra < 2 ^ 31 := (s.reg ra).toInt_lt
  unfold zigzag maxWord
  split <;> omega

theorem u_le_maxWord (ra : Reg) (s : State) : s.u ra ≤ maxWord := Nat.le_sub_one_of_lt (s.reg ra).isLt

theorem maxWord_lt_expgNumber_iff {signed : Bool} {ra : Reg} {s : State} :
    maxWord < expgNumber signed ra s ↔ signed = true ∧ s.s ra = -2 ^ 31 := by
  cases signed with
  | true => simp [expgNumber, maxWord_lt_zigzag_iff]
  | false => simp [expgNumber, u_le_maxWord]

/-- The quotient's successor overflows only where the order is 0 and the number is the largest (R104 (b)). -/
theorem maxWord_lt_quotient_succ_iff {k u : Nat} (hu : u ≤ maxWord) :
    maxWord < (u >>> k) + 1 ↔ k = 0 ∧ u = 2 ^ 32 - 1 := by
  unfold maxWord at *
  cases k with
  | zero =>
    rw [Nat.shiftRight_zero]
    omega
  | succ k =>
    have hhalf : u >>> (k + 1) ≤ u / 2 := by
      rw [Nat.shiftRight_succ_inside]
      exact Nat.shiftRight_le _ _
    omega

/-- The tests fail on the operands of R104 and on no others. -/
theorem expgOverflow_iff {signed : Bool} {k : Nat} {ra : Reg} {s : State} :
    ExpgOverflow k (expgNumber signed ra s) ↔
      31 < k ∨ (signed = true ∧ s.s ra = -2 ^ 31) ∨ (k = 0 ∧ expgNumber signed ra s = 2 ^ 32 - 1) := by
  unfold ExpgOverflow
  rw [← maxWord_lt_expgNumber_iff]
  refine or_congr_right ?_
  by_cases hu : maxWord < expgNumber signed ra s
  · exact iff_of_true (.inl hu) (.inl hu)
  · rw [maxWord_lt_quotient_succ_iff (Nat.le_of_not_lt hu)]

/-- Settles O29: outside the operands of R104 all tests pass, and the order-0 part has `M = log2 (q + 1)`. -/
theorem expgAppends : Obligations.ExpgAppends := by
  unfold Obligations.ExpgAppends
  intro signed reversed k ra s hrun v u hk hmin hmax
  have hfits : ¬ExpgOverflow k.val (expgNumber signed ra s) := by
    rw [expgOverflow_iff]
    exact fun h => h.elim (Nat.not_lt.2 hk) (·.elim hmin hmax)
  refine ⟨_, Nat.log2 (u / 2 ^ k.val + 1), expg_emits reversed hrun hfits, Nat.log2_self_le (Nat.succ_ne_zero _),
    Nat.lt_log2_self, ?_⟩
  rw [← Nat.shiftRight_eq_div_pow]
  exact appends_emit s _

/-- Settles O30: each of the three operands fails a test, and raising leaves `OUT` as it was. -/
theorem expgOverflows : Obligations.ExpgOverflows := by
  unfold Obligations.ExpgOverflows
  intro signed reversed k ra s hrun h
  have hover : ExpgOverflow k.val (expgNumber signed ra s) := by
    rw [expgOverflow_iff]
    rcases h with hmin | ⟨hk, rfl, hmax⟩ | hk
    · exact .inr (.inl hmin)
    · exact .inr (.inr ⟨hk, hmax⟩)
    · exact .inl hk
  obtain ⟨t, hexec, hraises⟩ := expg_raises reversed hrun hover
  exact ⟨t, hexec, hraises, by rw [hraises.1]⟩

end Sys2Proof.Machine
end

section
/-!
The binarizers that need no table (41_binarizers.md): `TU` and `FL` (R120 to R123), `CBP` and `MBQPD` (R130 to R133),
`CALM1` (R134), `UEGK` (R136, R137) and that it has `CALM1` as a case (R135); and `LEVELPFX` (R274).
-/

namespace Sys2Proof.Machine

/-! ## Code words -/

theorem tu_of_lt {n cMax : Nat} (h : n < cMax) : tu n cMax = List.replicate n true ++ [false] := if_pos h

theorem tu_of_le {n cMax : Nat} (h : cMax ≤ n) : tu n cMax = List.replicate cMax true := if_neg (Nat.not_lt.2 h)

/-- The order-`k` code written out (R102, R103): `m` is the place of the leading one of the quotient's successor. -/
theorem exists_eg_eq (u k : Nat) (p : Bool) :
    ∃ m, 2 ^ m ≤ u / 2 ^ k + 1 ∧ u / 2 ^ k + 1 < 2 ^ (m + 1) ∧
      eg u k p = List.replicate m p ++ [!p] ++ bin (u / 2 ^ k + 1) m ++ bin (u % 2 ^ k) k := by
  rw [← Nat.shiftRight_eq_div_pow]
  exact ⟨Nat.log2 ((u >>> k) + 1), Nat.log2_self_le (Nat.succ_ne_zero _), Nat.lt_log2_self, rfl⟩

/-- A command that only appends bits completes. -/
theorem command_appends {s : State} (hrun : s.halted = false) {e : Effect} {bits : Bits} (he : e = .ok (s.emit bits)) :
    ∃ t, s.command e = .next t ∧ Appends bits [] s t :=
  ⟨_, command_completes hrun he, appends_emit s bits⟩

/-! ## `TU`, `FL`, `LEVELPFX` (R120 to R123, R274) -/

/-- Settles O32: truncated unary by the side of the maximum, and the length and the value of `bin`. -/
theorem tuFlLevelpfxAppend : Obligations.TuFlLevelpfxAppend := by
  unfold Obligations.TuFlLevelpfxAppend
  intro ra rb s hrun
  refine ⟨fun hlt => ?below, fun hle => ?full, ?fixed, command_appends hrun rfl⟩
  case below =>
    rw [← tu_of_lt hlt]
    exact command_appends hrun rfl
  case full =>
    rw [← tu_of_le hle]
    exact command_appends hrun rfl
  case fixed =>
    obtain ⟨t, hexec, happends⟩ := command_appends hrun (e := .ok (s.emit (bin (s.u ra) (s.u rb)))) rfl
    exact ⟨t, _, hexec, happends, length_bin _ _, valueOf_bin _ _⟩

/-! ## `CBP` and `MBQPD` (R130 to R133) -/

/-- The chroma pattern, 0 to 2, in truncated unary. -/
theorem tu_two (n : Nat) : tu n 2 = if n = 0 then [false] else if n = 1 then [true, false] else [true, true] := by
  match n with
  | 0 => rfl
  | 1 => rfl
  | n + 2 => exact tu_of_le (Nat.le_add_left 2 n)

theorem cbpBits_eq (s : State) (v : Nat) :
    cbpBits s.chromaArrayType v =
      [decide (v % 2 = 1), decide (v / 2 % 2 = 1), decide (v / 4 % 2 = 1), decide (v / 8 % 2 = 1)] ++
        if s.geo.chromaArrayType = 1 ∨ s.geo.chromaArrayType = 2 then
          (if v / 16 = 0 then [false] else if v / 16 = 1 then [true, false] else [true, true])
        else [] := by
  have hone : s.chromaArrayType = 1 ↔ s.geo.chromaArrayType = 1 := BitVec.toNat_inj (y := 1)
  have htwo : s.chromaArrayType = 2 ↔ s.geo.chromaArrayType = 2 := BitVec.toNat_inj (y := 2)
  simp only [cbpBits, tu_two, hone, htwo, Nat.testBit_eq_decide_div_mod_eq]
  norm_num

/-- Settles O33: each command has one test, which fails above 47 and at -2^31. -/
theorem cbpMbqpdAppend : Obligations.CbpMbqpdAppend := by
  unfold Obligations.CbpMbqpdAppend
  intro ra s hrun v d
  refine ⟨fun hle => ?cbp, fun hlt => ?cbpFault, fun hd => ?mbqpd, fun hd => ?mbqpdFault⟩
  case cbp =>
    rw [← cbpBits_eq]
    exact command_appends hrun (ok_after (raiseIf_of_not (Nat.not_lt.2 hle)) rfl)
  case cbpFault => exact command_raises hrun nofun (error_first (raiseIf_of hlt))
  case mbqpd => exact command_appends hrun (ok_after (raiseIf_of_not (mt maxWord_lt_zigzag_iff.1 hd)) rfl)
  case mbqpdFault => exact command_raises hrun nofun (error_first (raiseIf_of (maxWord_lt_zigzag_iff.2 hd)))

/-! ## `CALM1` (R134) -/

theorem calm1_emits {s : State} (hrun : s.halted = false) (ra : Reg) :
    exec (.calm1 ra) s = .next (s.emit (calm1Bits (s.u ra))).retire := command_ok hrun

theorem calm1Bits_of_lt {v : Nat} (h : v < 14) : calm1Bits v = List.replicate v true ++ [false] := if_pos h

/-- From 14 on the opening ones and those that open the order-0 code are one run. -/
theorem exists_calm1Bits_eq {v : Nat} (h : 14 ≤ v) :
    ∃ m, 2 ^ m ≤ v - 13 ∧ v - 13 < 2 ^ (m + 1) ∧
      calm1Bits v = List.replicate (14 + m) true ++ [false] ++ bin (v - 13) m := by
  obtain ⟨m, hlo, hhi, heg⟩ := exists_eg_eq (v - 14) 0 true
  have hq : (v - 14) / 2 ^ 0 + 1 = v - 13 := by omega
  rw [hq] at hlo hhi heg
  refine ⟨m, hlo, hhi, ?_⟩
  rw [calm1Bits, if_neg (Nat.not_lt.2 h), heg, List.replicate_add]
  simp [rep, bin]

/-- Settles O34, by the side of 14 the operand is on. -/
theorem calm1Appends : Obligations.Calm1Appends := by
  unfold Obligations.Calm1Appends
  intro ra s hrun
  refine ⟨fun hlt => ⟨_, calm1_emits hrun ra, ?_⟩, fun hle => ?_⟩
  · rw [← calm1Bits_of_lt hlt]
    exact appends_emit s _
  · obtain ⟨m, hlo, hhi, hbits⟩ := exists_calm1Bits_eq hle
    exact ⟨_, m, calm1_emits hrun ra, hlo, hhi, hbits ▸ appends_emit s _⟩

/-! ## `UEGK` (R136, R137) -/

/-- The number that `UEGK` encodes (R136). -/
def uegkNumber (signed : Bool) (ra : Reg) (s : State) : Int := if signed then s.s ra else s.u ra

/-- Some overflow test of `UEGK` fails on the order `k`, the absolute value `a` and the cut-off (R136). -/
def UegkOverflow (k a ucoff : Nat) : Prop := 31 < k ∨ (ucoff ≤ a ∧ maxWord < ((a - ucoff) >>> k) + 1)

theorem uegk_emits {signed : Bool} {k : Fin 64} {ra rb : Reg} {s : State} (rd : Reg) (hrun : s.halted = false)
    (h : ¬UegkOverflow k.val (uegkNumber signed ra s).natAbs (s.u rb)) :
    exec (.uegk signed k rd ra rb) s =
      .next ((s.emit (uegkBits signed k.val (uegkNumber signed ra s) (s.u rb))).setNat rd
        (decide (s.u rb ≤ (uegkNumber signed ra s).natAbs)).toNat).retire := by
  obtain ⟨hk, hq⟩ := not_or.1 h
  exact command_completes hrun (ok_after (raiseIf_of_not hk) (ok_after (raiseIf_of_not hq) rfl))

theorem uegk_raises {signed : Bool} {k : Fin 64} {ra rb : Reg} {s : State} (rd : Reg) (hrun : s.halted = false)
    (h : UegkOverflow k.val (uegkNumber signed ra s).natAbs (s.u rb)) :
    ∃ t, exec (.uegk signed k rd ra rb) s = .next t ∧ Raises .arithmeticOverflow s t := by
  refine command_raises hrun nofun ?_
  by_cases hk : 31 < k.val
  · exact error_first (raiseIf_of hk)
  have hq := h.resolve_left hk
  exact error_after (raiseIf_of_not hk) (error_first (raiseIf_of hq))

/-- The opening part (R136): unary below the cut-off, the cut-off's number of ones from it on. -/
theorem tu_min (a ucoff : Nat) :
    tu (min a ucoff) ucoff = if a < ucoff then List.replicate a true ++ [false] else List.replicate ucoff true := by
  split
  case isTrue h => rw [min_eq_left h.le, tu_of_lt h]
  case isFalse h => rw [min_eq_right (Nat.le_of_not_lt h), tu_of_le le_rfl]

theorem uegkSign_eq (signed : Bool) (v : Int) :
    uegkSign signed v = if signed = true ∧ v ≠ 0 then [decide (v < 0)] else [] := by simp [uegkSign]

/-- Settles O36: the two tests fail on the operands that overflow and on no others, and the suffix is the order-`k` code
of the excess over the cut-off. -/
theorem uegkAppends : Obligations.UegkAppends := by
  unfold Obligations.UegkAppends
  intro signed k rd ra rb s hrun v a ucoff q
  have hover : UegkOverflow k.val a ucoff ↔ 31 < k.val ∨ (ucoff ≤ a ∧ 2 ^ 32 - 1 < q) := by
    rw [UegkOverflow, Nat.shiftRight_eq_div_pow]
    rfl
  refine ⟨fun hk hq => ?_, fun h => uegk_raises rd hrun (hover.2 h)⟩
  have hfits : ¬UegkOverflow k.val a ucoff := by
    rw [hover]
    exact fun h => h.elim (Nat.not_lt.2 hk) fun ⟨hle, hlt⟩ => Nat.not_lt.2 (hq hle) hlt
  refine ⟨_, if ucoff ≤ a then eg (a - ucoff) k.val true else [], uegk_emits rd hrun hfits, ?appends, ?result, ?none,
    ?suffix⟩
  case appends =>
    rw [← tu_min, ← uegkSign_eq]
    exact appends_emit_setNat s _ rd _
  case result =>
    rw [State.reg_retire, State.reg_setNat_same]
    change (BitVec.ofNat 32 (decide (ucoff ≤ a)).toNat).toNat = _
    by_cases h : ucoff ≤ a <;> simp [h]
  case none => exact fun hlt => if_neg (Nat.not_le.2 hlt)
  case suffix =>
    intro hle
    rw [if_pos hle]
    exact exists_eg_eq (a - ucoff) k.val true

/-! ## `CALM1` as a case of `UEGK` (R135) -/

theorem calm1Bits_eq_uegkBits (v : Nat) : calm1Bits v = uegkBits false 0 v 14 := by
  rw [uegkBits, Int.natAbs_natCast, tu_min]
  by_cases h : v < 14
  · simp [calm1Bits_of_lt h, h, Nat.not_le.2 h, uegkSign]
  · simp [calm1Bits, h, Nat.le_of_not_lt h, uegkSign, rep]

/-- The excess of a word over 14 has a code word. -/
theorem not_uegkOverflow_calm1 (ra : Reg) (s : State) : ¬UegkOverflow 0 (s.u ra) 14 := by
  have hmax := u_le_maxWord ra s
  rw [UegkOverflow, Nat.shiftRight_zero]
  omega

/-- Settles O35: both commands append the same bits to `OUT`. -/
theorem calm1IsUegk : Obligations.Calm1IsUegk := by
  unfold Obligations.Calm1IsUegk
  intro rd ra rb s hrun hcut
  have hfits : ¬UegkOverflow 0 (uegkNumber false ra s).natAbs (s.u rb) := hcut ▸ not_uegkOverflow_calm1 ra s
  have hbits : calm1Bits (s.u ra) = uegkBits false 0 (uegkNumber false ra s) (s.u rb) :=
    hcut ▸ calm1Bits_eq_uegkBits (s.u ra)
  refine ⟨_, _, calm1_emits hrun ra, uegk_emits (k := 0) rd hrun hfits, ?_⟩
  simp [hbits]

end Sys2Proof.Machine
end

section
/-!
`MBTYPE` and `SUBMBTYPE` append what the slice's table has for the type value (R124 to R128), for every table; and what
the default tables hold (R340 to R347).
-/

namespace Sys2Proof.Machine

/-! ## The slice class (R124) -/

theorem sliceClass_of_number {s : State} {cls : SliceClass} (hst : (s.conf sliceType).toNat ≤ 9)
    (h : cls.number = (s.conf sliceType).toNat % 5) : s.sliceClass = some cls := by
  rw [State.sliceClass, sliceClassOf, if_neg (Nat.not_lt.2 hst), ← h]
  cases cls <;> rfl

theorem sliceClass_eq_none {s : State} (hst : 9 < (s.conf sliceType).toNat) : s.sliceClass = none := if_pos hst

/-! ## The commands, for every table (R124, R128)

The table is a variable of its own, so that a rule speaks of the slice's table and of a default table it equals. -/

section

variable {s : State} (hrun : s.halted = false)
include hrun

theorem type_raises_sliceType (rd ra : Reg) (h : s.sliceClass = none) :
    (∃ t, exec (.mbtype rd ra) s = .next t ∧ Raises .contextDerivationError s t) ∧
      ∃ t, exec (.submbtype ra) s = .next t ∧ Raises .contextDerivationError s t := by
  have hraise : orRaise .contextDerivationError s.sliceClass = .error .contextDerivationError :=
    orRaise_error.2 ⟨h, rfl⟩
  exact ⟨command_raises hrun nofun (error_first hraise), command_raises hrun nofun (error_first hraise)⟩

variable {cls : SliceClass} (hcls : s.sliceClass = some cls) {ra : Reg}
include hcls

section

variable {table : BySlice (Bits × Bool)} (htable : s.params.mbTypeBinTable = table)
include htable

theorem mbtype_emits {bits : Bits} {nested : Bool} (rd : Reg) (h : table.entry cls (s.u ra) = some (bits, nested)) :
    ∃ t, exec (.mbtype rd ra) s = .next t ∧ Appends bits [rd] s t ∧ t.reg rd = if nested then 1 else 0 := by
  subst htable
  refine ⟨_, command_completes hrun (ok_after (orRaise_ok.2 hcls) (ok_after (orRaise_ok.2 h) rfl)),
    appends_emit_setNat s bits rd nested.toNat, ?_⟩
  cases nested <;> simp

theorem mbtype_raises (rd : Reg) (h : table.entry cls (s.u ra) = none) :
    ∃ t, exec (.mbtype rd ra) s = .next t ∧ Raises .contextDerivationError s t := by
  subst htable
  exact command_raises hrun nofun (error_after (orRaise_ok.2 hcls) (error_first (orRaise_error.2 ⟨h, rfl⟩)))

end

section

variable {table : BySlice Bits} (htable : s.params.subMbTypeBinTable = table)
include htable

theorem submbtype_emits {bits : Bits} (h : table.entry cls (s.u ra) = some bits) :
    ∃ t, exec (.submbtype ra) s = .next t ∧ Appends bits [] s t := by
  subst htable
  exact command_appends hrun (ok_after (orRaise_ok.2 hcls) (ok_after (orRaise_ok.2 h) rfl))

theorem submbtype_raises (h : table.entry cls (s.u ra) = none) :
    ∃ t, exec (.submbtype ra) s = .next t ∧ Raises .contextDerivationError s t := by
  subst htable
  exact command_raises hrun nofun (error_after (orRaise_ok.2 hcls) (error_first (orRaise_error.2 ⟨h, rfl⟩)))

end

end

/-! ## The default tables (R340 to R347) -/

/-- The closed form of R341 is the table of R340. -/
theorem iTypeCodes_eq : iTypeCodes = (List.range 26).map iTypeCode := by decide

theorem iTypeCodes_getElem? {v : Nat} (h : v ≤ 25) : iTypeCodes[v]? = some (iTypeCode v) := by
  rw [iTypeCodes_eq, List.getElem?_map, List.getElem?_range (Nat.lt_succ_of_le h), Option.map_some]

theorem iTypeCodes_past {v : Nat} (h : 25 < v) : iTypeCodes[v]? = none := by
  rw [iTypeCodes_eq]
  exact List.getElem?_eq_none (by rwa [List.length_map, List.length_range])

/-- The I row is the I-slice codes, not nested (R340). -/
theorem mbTypeBins_entry_i (v : Nat) : mbTypeBins.entry .i v = iTypeCodes[v]?.map fun c => (c, false) := by
  have hrow : mbTypeBins.row .i = iTypeCodes.map fun c => some (c, false) := rfl
  rw [BySlice.entry, hrow, List.getElem?_map]
  cases iTypeCodes[v]? <;> rfl

section

variable {cls : SliceClass} {own : List (Option Bits)} {pre : Bits} {v : Nat}
  (hrow : mbTypeBins.row cls = nestedRow own pre)
include hrow

/-- A row's own entries come first (R125). -/
theorem mbTypeBins_entry_own {e : Option Bits} (h : own[v]? = some e) :
    mbTypeBins.entry cls v = e.map fun c => (c, false) := by
  have hlt : v < own.length := (List.getElem?_eq_some_iff.1 h).1
  rw [BySlice.entry, hrow, nestedRow, List.getElem?_append_left (by simpa using hlt), List.getElem?_map, h]
  rfl

/-- Past its own entries a row has the nesting bits and the I-slice codes (R125, R344). -/
theorem mbTypeBins_entry_past_own (h : own.length ≤ v) :
    mbTypeBins.entry cls v = iTypeCodes[v - own.length]?.map fun c => (pre ++ c, true) := by
  rw [BySlice.entry, hrow, nestedRow, List.getElem?_append_right (by simpa using h), List.length_map, List.getElem?_map]
  cases iTypeCodes[v - own.length]? <;> rfl

theorem mbTypeBins_entry_nested (hlo : own.length ≤ v) (hhi : v ≤ own.length + 25) :
    mbTypeBins.entry cls v = some (pre ++ iTypeCode (v - own.length), true) := by
  rw [mbTypeBins_entry_past_own hrow hlo, iTypeCodes_getElem? (Nat.sub_le_iff_le_add'.2 hhi)]
  rfl

theorem mbTypeBins_entry_past_nested (h : own.length + 25 < v) : mbTypeBins.entry cls v = none := by
  rw [mbTypeBins_entry_past_own hrow (by omega), iTypeCodes_past (by omega)]
  rfl

end

/-- The classes P and SP share their rows in both tables (R342, R347). -/
theorem exists_p_or_sp {s : State} (hst : (s.conf sliceType).toNat ≤ 9)
    (h : (s.conf sliceType).toNat % 5 = 0 ∨ (s.conf sliceType).toNat % 5 = 3) :
    ∃ cls, s.sliceClass = some cls ∧ mbTypeBins.row cls = nestedRow pTypeCodes [true] ∧
      subMbTypeBins.row cls = pSubTypeCodes.map some := by
  rcases h with h | h
  · exact ⟨.p, sliceClass_of_number hst h.symm, rfl, rfl⟩
  · exact ⟨.sp, sliceClass_of_number hst h.symm, rfl, rfl⟩

/-- The P row's own codes in closed form (R342). -/
theorem pTypeCodes_getElem? {v : Nat} (h : v ≤ 3) :
    pTypeCodes[v]? = some (some (false :: if v = 0 then [false, false] else bin (4 - v) 2)) := by
  interval_cases v <;> decide

/-- Every value below the intra range has a code in B slices (R343). -/
theorem exists_bTypeCodes {v : Nat} (h : v < 23) : ∃ word, bTypeCodes[v]? = some (some word) := by
  have hall : ∀ e ∈ bTypeCodes, e.isSome := by decide
  obtain ⟨word, hword⟩ := Option.isSome_iff_exists.1 (hall bTypeCodes[v] (List.getElem_mem h))
  exact ⟨word, hword ▸ List.getElem?_eq_getElem h⟩

theorem pSubTypeCodes_getElem? {v : Nat} (h : v ≤ 3) :
    pSubTypeCodes[v]? =
      some (if v = 0 then [true] else if v = 1 then [false, false] else false :: true :: [decide (v = 2)]) := by
  interval_cases v <;> decide

theorem subMbTypeBins_entry {cls : SliceClass} {codes : List Bits} (hrow : subMbTypeBins.row cls = codes.map some)
    (v : Nat) : subMbTypeBins.entry cls v = codes[v]? := by
  rw [BySlice.entry, hrow, List.getElem?_map]
  cases codes[v]? <;> rfl

/-! ## The statement -/

section

variable {s : State} (hst : (s.conf sliceType).toNat ≤ 9) {v : Nat}
include hst

/-- The values without a code in the default `MB_TYPE_BIN_TABLE` (R342 to R345). -/
theorem exists_mbTypeBins_none
    (h : let sc := (s.conf sliceType).toNat % 5
      (sc = 2 ∧ 25 < v) ∨ ((sc = 0 ∨ sc = 3) ∧ (v = 4 ∨ 30 < v)) ∨ (sc = 1 ∧ 48 < v) ∨ (sc = 4 ∧ 26 < v)) :
    ∃ cls, s.sliceClass = some cls ∧ mbTypeBins.entry cls v = none := by
  rcases h with ⟨hsc, hv⟩ | ⟨hsc, hv⟩ | ⟨hsc, hv⟩ | ⟨hsc, hv⟩
  · exact ⟨.i, sliceClass_of_number hst hsc.symm, by rw [mbTypeBins_entry_i, iTypeCodes_past hv]; rfl⟩
  · obtain ⟨cls, hcls, hrow, -⟩ := exists_p_or_sp hst hsc
    rcases hv with rfl | hv
    · exact ⟨cls, hcls, mbTypeBins_entry_own hrow (e := none) rfl⟩
    · exact ⟨cls, hcls, mbTypeBins_entry_past_nested hrow hv⟩
  · exact ⟨.b, sliceClass_of_number hst hsc.symm, mbTypeBins_entry_past_nested rfl hv⟩
  · exact ⟨.si, sliceClass_of_number hst hsc.symm, mbTypeBins_entry_past_nested rfl hv⟩

/-- The values without a code in the default `SUB_MB_TYPE_BIN_TABLE` (R347). -/
theorem exists_subMbTypeBins_none
    (h : let sc := (s.conf sliceType).toNat % 5
      sc = 2 ∨ sc = 4 ∨ ((sc = 0 ∨ sc = 3) ∧ 3 < v) ∨ (sc = 1 ∧ 12 < v)) :
    ∃ cls, s.sliceClass = some cls ∧ subMbTypeBins.entry cls v = none := by
  rcases h with hsc | hsc | ⟨hsc, hv⟩ | ⟨hsc, hv⟩
  · exact ⟨.i, sliceClass_of_number hst hsc.symm, rfl⟩
  · exact ⟨.si, sliceClass_of_number hst hsc.symm, rfl⟩
  · obtain ⟨cls, hcls, -, hrow⟩ := exists_p_or_sp hst hsc
    exact ⟨cls, hcls, by rw [subMbTypeBins_entry hrow, List.getElem?_eq_none hv]⟩
  · exact ⟨.b, sliceClass_of_number hst hsc.symm, by rw [subMbTypeBins_entry rfl, List.getElem?_eq_none hv]⟩

end

/-- Settles O37: the command answers by the entry of the slice's row, and the default rows are those of R340 to R347. -/
theorem typeCodesAppended : Obligations.TypeCodesAppended := by
  unfold Obligations.TypeCodesAppended
  intro rd ra s hrun st sc v emits emitsSub noCode noSubCode
  have hclass (cls : SliceClass) (hst : st ≤ 9) (hsc : sc = cls.number) : s.sliceClass = some cls :=
    sliceClass_of_number hst hsc.symm
  refine ⟨fun hst => type_raises_sliceType hrun rd ra (sliceClass_eq_none hst), fun cls hst hnumber => ?anyTable,
    fun hst (htable : _ = mbTypeBins) => ?mbType, fun hst (htable : _ = subMbTypeBins) => ?subMbType⟩
  case anyTable =>
    have hcls := hclass cls hst hnumber.symm
    exact ⟨fun _ _ => mbtype_emits hrun hcls rfl rd, mbtype_raises hrun hcls rfl rd,
      fun _ => submbtype_emits hrun hcls rfl, submbtype_raises hrun hcls rfl⟩
  case mbType =>
    refine ⟨fun hsc hv => ?i, fun hsc hv => ?pOwn, fun hsc hlo hhi => ?pNested, fun hsc word hword => ?bOwn,
      fun _ => exists_bTypeCodes, fun hsc hlo hhi => ?bNested, fun hsc hv => ?siOwn, fun hsc hlo hhi => ?siNested,
      fun h => ?none⟩
    case i =>
      have hentry : mbTypeBins.entry .i v = some (iTypeCode v, false) := by
        rw [mbTypeBins_entry_i, iTypeCodes_getElem? hv, Option.map_some]
      exact mbtype_emits hrun (hclass .i hst hsc) htable rd hentry
    case pOwn =>
      obtain ⟨cls, hcls, hrow, -⟩ := exists_p_or_sp hst hsc
      exact mbtype_emits hrun hcls htable rd (mbTypeBins_entry_own hrow (pTypeCodes_getElem? hv))
    case pNested =>
      obtain ⟨cls, hcls, hrow, -⟩ := exists_p_or_sp hst hsc
      exact mbtype_emits hrun hcls htable rd (mbTypeBins_entry_nested hrow hlo hhi)
    case bOwn => exact mbtype_emits hrun (hclass .b hst hsc) htable rd (mbTypeBins_entry_own rfl hword)
    case bNested => exact mbtype_emits hrun (hclass .b hst hsc) htable rd (mbTypeBins_entry_nested rfl hlo hhi)
    case siOwn =>
      have hword : siTypeCodes[v]? = some [false] := hv ▸ rfl
      exact mbtype_emits hrun (hclass .si hst hsc) htable rd (mbTypeBins_entry_own rfl hword)
    case siNested => exact mbtype_emits hrun (hclass .si hst hsc) htable rd (mbTypeBins_entry_nested rfl hlo hhi)
    case none =>
      obtain ⟨cls, hcls, hentry⟩ := exists_mbTypeBins_none hst h
      exact mbtype_raises hrun hcls htable rd hentry
  case subMbType =>
    refine ⟨fun hsc hv => ?p, fun hsc hv => ?b, fun h => ?none⟩
    case p =>
      obtain ⟨cls, hcls, -, hrow⟩ := exists_p_or_sp hst hsc
      exact submbtype_emits hrun hcls htable ((subMbTypeBins_entry hrow v).trans (pSubTypeCodes_getElem? hv))
    case b =>
      have hword := List.getElem?_eq_getElem (l := bSubTypeCodes) (i := v) (Nat.lt_succ_of_le hv)
      exact ⟨_, hword, submbtype_emits hrun (hclass .b hst hsc) htable ((subMbTypeBins_entry rfl v).trans hword)⟩
    case none =>
      obtain ⟨cls, hcls, hentry⟩ := exists_subMbTypeBins_none hst h
      exact submbtype_raises hrun hcls htable hentry

end Sys2Proof.Machine
end

section
/-!
The classification queries (R160 to R169) answer by the row of the record's type in the class tables, for every table;
what the default tables hold (R334 to R337); and the faults of the operands (R160), in `XY2PART` and `NEIGH` too.
-/

namespace Sys2Proof.Machine

/-! ## The operands (R160) -/

theorem record_eq_some {s : State} {i : Nat} {m : MbRecord} : s.record i = some m ↔ NamesRecord s i m := by
  unfold State.record State.records NamesRecord
  rcases lt_or_ge i s.mbstore.length with hlt | hge
  · rw [List.getElem?_append_left hlt]
    exact ⟨.inl, fun h => h.resolve_right fun h => hlt.ne h.1⟩
  · rw [List.getElem?_append_right hge, List.getElem?_eq_none hge]
    have hcur : i - s.mbstore.length = 0 ↔ i = s.mbstore.length := by omega
    cases s.cur <;> simp [List.getElem?_singleton, hcur]

theorem recordOperand_ok {s : State} {r : Reg} {m : MbRecord} :
    s.recordOperand r = .ok m ↔ NamesRecord s (s.u r) m := orRaise_ok.trans record_eq_some

theorem recordOperand_raisesOnly (s : State) (r : Reg) : RaisesOnly .hostProtocolError (s.recordOperand r) :=
  raisesOnly_orRaise

theorem recordOperand_error {s : State} {r : Reg} (h : ¬∃ m, NamesRecord s (s.u r) m) :
    s.recordOperand r = .error .hostProtocolError :=
  (recordOperand_raisesOnly s r).error_of_not_ok fun m hm => h ⟨m, recordOperand_ok.1 hm⟩

theorem partOperand_ok {s : State} {r : Reg} (h : s.u r ≤ 3) : s.partOperand r = .ok (s.u r) :=
  ok_after (raiseIf_of_not (Nat.not_lt.2 h)) rfl

theorem partOperand_error {s : State} {r : Reg} (h : 3 < s.u r) : s.partOperand r = .error .hostProtocolError :=
  error_first (raiseIf_of h)

/-- Where the first part of a sequence of tests raises `f` only, and the rest always does, the sequence raises `f`. -/
theorem RaisesOnly.error_of_rest {α β : Type} {f : FaultClass} {x : Except FaultClass α}
    {k : α → Except FaultClass β} (h : RaisesOnly f x) (hk : ∀ a, k a = .error f) : (x >>= k) = .error f := by
  cases hx : x with
  | ok a => exact hk a
  | error g => exact congrArg Except.error (h g hx)

/-- Settles O40: the first failing test of each operation is one that raises `HostProtocolError`. -/
theorem recordOperandsTrap : Obligations.RecordOperandsTrap := by
  unfold Obligations.RecordOperandsTrap
  intro rd ra rb rc chroma o s i hrun
  refine ⟨fun hno hi => ?noRecord, fun hp hi => ?partIndex, fun hxy hrd hi => ?position⟩
  case noRecord =>
    have hop := recordOperand_error hno
    rcases hi with rfl | rfl | rfl | rfl | rfl | rfl | rfl | rfl | ⟨rfl, hrd⟩ | ⟨rfl, hrd⟩
    iterate 8 exact command_raises hrun nofun (error_first hop)
    all_goals exact command_raises hrun nofun (error_after (raiseIf_of_not (Nat.not_lt.2 hrd)) (error_first hop))
  case partIndex =>
    have hop := recordOperand_raisesOnly s ra
    rcases hi with rfl | rfl | rfl | rfl <;>
      exact command_raises hrun nofun (hop.error_of_rest fun _ => error_first (partOperand_error hp))
  case position =>
    subst hi
    exact command_raises hrun nofun (error_after (raiseIf_of_not (Nat.not_lt.2 hrd))
      ((recordOperand_raisesOnly s ra).error_of_rest fun _ => error_first (raiseIf_of hxy)))

/-! ## A query with one result -/

/-- `i` completes with `n` in `x[rd]`, and nothing else changes but `CMDCNT`. -/
def Gives (s : State) (rd : Reg) (i : Instr) (n : Nat) : Prop :=
  ∃ t, exec i s = .next t ∧ (t.reg rd).toNat = n ∧ WritesOnly [rd] s t

/-- A query whose tests pass gives its result modulo 2^32 (R12). -/
theorem gives_of_ok {s : State} {rd : Reg} {i : Instr} {e : Effect} {n k : Nat} (hrun : s.halted = false)
    (hi : exec i s = s.command e) (he : e = .ok (s.setNat rd n)) (hk : n % 2 ^ 32 = k) : Gives s rd i k :=
  ⟨_, hi.trans (command_completes hrun he), by simpa using hk, writesOnly_setNat s rd n⟩

theorem blockSize_word_mod (z : BlockSize) : z.word % 2 ^ 32 = 256 * z.width + z.height := by
  cases z <;> rfl

theorem predMode_code_mod (mode : PredMode) : mode.code % 2 ^ 32 = mode.code := by
  cases mode <;> rfl

/-! ## The queries on a macroblock type (R162 to R166) -/

/-- The prediction mode of partition `p` of type code `T` with the class `row` (R165). -/
def partModeOf (row : MbClass) (T : Nat) (t8x8 : Bool) (p : Nat) : PredMode :=
  if row.numPart ≤ p ∧ T ≠ 33 ∧ T ≠ 56 then .na
  else if T = 0 then (if p ≠ 0 then .na else if t8x8 then .intra8x8 else .intra4x4)
  else if p = 0 then row.mode0 else if p = 1 then row.mode1 else .na

theorem isDirect_iff {t : MbT} : t.isDirect = true ↔ t.val = 33 ∨ t.val = 56 := by
  revert t; decide

theorem hasSubTypes_iff {t : MbT} : t.hasSubTypes = true ↔ t.val = 30 ∨ t.val = 31 ∨ t.val = 55 := by
  revert t; decide

theorem partMode_eq (m : MbRecord) (q : Params) (p : Nat) :
    m.partMode q p = partModeOf (q.mbClass m.type) m.type.val m.t8x8 p := by
  have hdirect : (!m.type.isDirect) = true ↔ m.type.val ≠ 33 ∧ m.type.val ≠ 56 := by
    rw [Bool.not_eq_true', ← Bool.not_eq_true, isDirect_iff, not_or]
  have hINxN : m.type = iNxN ↔ m.type.val = 0 := Fin.ext_iff
  simp only [MbRecord.partMode, partModeOf, hdirect, hINxN, ite_not]
  match p with
  | 0 | 1 | _ + 2 => rfl

/-- The default rows of the types (R334 to R336). -/
theorem mbClasses_row (t : MbT) :
    mbClasses[t].intra = decide (t.val ≤ 26) ∧ mbClasses[t].numPart = numPartOf t.val ∧
      mbClasses[t].size.width = partWidthOf t.val ∧ mbClasses[t].size.height = partHeightOf t.val := by
  revert t; decide

/-- The modes of the default rows (R165, R334 to R336). -/
theorem mbClasses_partModeOf (t : MbT) (t8x8 : Bool) (p : Fin 4) :
    (partModeOf mbClasses[t] t.val t8x8 p).code = partPredOf t.val t8x8 p := by
  revert t t8x8 p; decide

/-- Settles O38: each query writes what the type's row holds, and the rows of the default table are those of R334 to
R336. -/
theorem typeQueries : Obligations.TypeQueries := by
  unfold Obligations.TypeQueries
  intro rd ra rb s m hrun hnames T p row mode gives
  have hm : s.recordOperand ra = .ok m := recordOperand_ok.2 hnames
  refine ⟨gives_of_ok hrun rfl (ok_after hm rfl) ?intra, gives_of_ok hrun rfl (ok_after hm rfl) ?inter,
    gives_of_ok hrun rfl (ok_after hm rfl) rfl, gives_of_ok hrun rfl (ok_after hm rfl) (blockSize_word_mod row.size),
    fun hp => ?partpred, fun htable => ?default⟩
  case intra =>
    change row.intra.toNat % 2 ^ 32 = _
    cases row.intra <;> rfl
  case inter =>
    change (!row.intra).toNat % 2 ^ 32 = _
    cases row.intra <;> rfl
  case partpred =>
    refine gives_of_ok hrun rfl (ok_after hm (ok_after (partOperand_ok hp) rfl)) ?_
    rw [partMode_eq]
    exact predMode_code_mod mode
  case default =>
    have hrow : row = mbClasses[m.type] := congrArg (·[m.type]) htable
    obtain ⟨hintra, hnum, hwidth, hheight⟩ := mbClasses_row m.type
    refine ⟨hrow ▸ hintra, hrow ▸ hnum, hrow ▸ hwidth, hrow ▸ hheight, fun hp => ?_⟩
    change (partModeOf row T m.t8x8 p).code = _
    rw [hrow]
    exact mbClasses_partModeOf m.type m.t8x8 ⟨p, Nat.lt_succ_of_le hp⟩

/-! ## The queries on a sub-macroblock (R167 to R169) -/

/-- The sub-types that fit a type with sub-macroblocks (R167). -/
theorem hasSubTypes_and_fits_iff {t : MbT} {st : SubT} :
    t.hasSubTypes = true ∧ st.fits t = true ↔
      (t.val = 55 ∧ 4 ≤ st.val) ∨ ((t.val = 30 ∨ t.val = 31) ∧ st.val ≤ 3) := by
  have hb8x8 : t = b8x8 ↔ t.val = 55 := Fin.ext_iff
  simp only [hasSubTypes_iff, SubT.fits, hb8x8]
  split <;> simp only [decide_eq_true_eq] <;> omega

theorem subTypeIs_iff {m : MbRecord} {p : Nat} {st : SubT} :
    SubTypeIs m p st.val ↔ m.sub[p]?.join = some st ∧ m.type.hasSubTypes = true ∧ st.fits m.type = true := by
  rw [hasSubTypes_and_fits_iff, Option.join_eq_some_iff]
  refine and_congr_left' ⟨?_, fun h => ⟨st, h, rfl⟩⟩
  rintro ⟨st', h, hst⟩
  rwa [Fin.ext hst] at h

theorem subClass_of_subTypeIs {m : MbRecord} {p : Nat} {t : SubT} (q : Params) (h : SubTypeIs m p t.val) :
    m.subClass q p = .ok (q.subMbClass t) := by
  obtain ⟨hsub, htypes, hfits⟩ := subTypeIs_iff.1 h
  simp only [MbRecord.subClass, htypes, hsub, hfits, if_true]

theorem subClass_of_direct {m : MbRecord} (q : Params) (p : Nat) (h : m.type.val = 33 ∨ m.type.val = 56) :
    m.subClass q p = .ok ⟨4, .direct, .s4x4⟩ := by
  have htypes : ¬m.type.hasSubTypes = true := fun h' => by have := hasSubTypes_iff.1 h'; omega
  rw [MbRecord.subClass, if_neg htypes, if_pos (isDirect_iff.2 h)]

theorem subClass_error {m : MbRecord} {p : Nat} (q : Params) (hdirect : ¬(m.type.val = 33 ∨ m.type.val = 56))
    (hno : ¬∃ t, SubTypeIs m p t) : m.subClass q p = .error .contextDerivationError := by
  by_cases htypes : m.type.hasSubTypes = true
  · rw [MbRecord.subClass, if_pos htypes]
    split
    next t hsub =>
      exact if_neg fun hfits => hno ⟨t.val, subTypeIs_iff.2 ⟨hsub, htypes, hfits⟩⟩
    next => rfl
  · rw [MbRecord.subClass, if_neg htypes, if_neg (isDirect_iff.not.2 hdirect)]

section

variable {s : State} (hrun : s.halted = false) {ra rb : Reg} {m : MbRecord} (hm : s.recordOperand ra = .ok m)
  (hp : s.u rb ≤ 3) (rd : Reg)
include hrun hm hp

theorem subQueries_give {row : SubMbClass} (hrow : m.subClass s.params (s.u rb) = .ok row) :
    Gives s rd (.numsubpart rd ra rb) (row.numSubPart % 2 ^ 32) ∧ Gives s rd (.subpartpred rd ra rb) row.mode.code ∧
      Gives s rd (.subpartdim rd ra rb) (256 * row.size.width + row.size.height) := by
  have hpart := partOperand_ok hp
  exact ⟨gives_of_ok hrun rfl (ok_after hm (ok_after hpart (ok_after hrow rfl))) rfl,
    gives_of_ok hrun rfl (ok_after hm (ok_after hpart (ok_after hrow rfl))) (predMode_code_mod row.mode),
    gives_of_ok hrun rfl (ok_after hm (ok_after hpart (ok_after hrow rfl))) (blockSize_word_mod row.size)⟩

theorem subQueries_raise (h : m.subClass s.params (s.u rb) = .error .contextDerivationError) {i : Instr}
    (hi : i = .numsubpart rd ra rb ∨ i = .subpartpred rd ra rb ∨ i = .subpartdim rd ra rb) :
    ∃ t, exec i s = .next t ∧ Raises .contextDerivationError s t := by
  have hpart := partOperand_ok hp
  rcases hi with rfl | rfl | rfl <;>
    exact command_raises hrun nofun (error_after hm (error_after hpart (error_first h)))

end

/-- The default rows of the sub-types (R337). -/
theorem subMbClasses_row (t : SubT) :
    subMbClasses[t].numSubPart = numSubPartOf t.val ∧ subMbClasses[t].mode.code = subPredOf t.val ∧
      subMbClasses[t].size.width = subWidthOf t.val ∧ subMbClasses[t].size.height = subHeightOf t.val := by
  revert t; decide

/-- Settles O39: each query writes what the class of the sub-macroblock holds, and raises where it has none. -/
theorem subTypeQueries : Obligations.SubTypeQueries := by
  unfold Obligations.SubTypeQueries
  intro rd ra rb s m hrun hnames hp T gives
  have hm : s.recordOperand ra = .ok m := recordOperand_ok.2 hnames
  refine ⟨fun t ht => ?subType, fun hdirect => ?direct, fun h33 h56 hno i hi => ?noSubType⟩
  case subType =>
    obtain ⟨hnum, hmode, hsize⟩ := subQueries_give hrun hm hp rd (subClass_of_subTypeIs s.params ht)
    refine ⟨hnum, hmode, hsize, fun htable => ?_⟩
    have hrow : s.params.subMbClassTable[t] = subMbClasses[t] := congrArg (·[t]) htable
    exact hrow ▸ subMbClasses_row t
  case direct => exact subQueries_give hrun hm hp rd (subClass_of_direct s.params _ hdirect)
  case noSubType => exact subQueries_raise hrun hm hp rd (subClass_error s.params (not_or.2 ⟨h33, h56⟩) hno) hi

end Sys2Proof.Machine
end

section
/-!
`SGMAP` where its tests pass (R190, R200 to R202) and where they fail (R190, R195, R199, R203). The groups of the map units
are taken from one equation of `mapUnits` for each map type, the expansion from the map unit of each macroblock.
-/

namespace Sys2Proof.Machine

/-! ## The map units, by map type (R191 to R199) -/

section

variable {s : State}

theorem mapUnits_one_group (hg : s.groupsMinus1 = 0) :
    mapUnits s = .ok (List.replicate s.geo.picSizeInMapUnits.toNat (groupId 0)) := if_pos hg

theorem mapUnits_unmapped (hg : s.groupsMinus1 ≠ 0) (hty : 6 < s.mapType) : mapUnits s = .error .configurationError :=
  (if_neg hg).trans (if_pos hty)

theorem groupsMinus1_ne_zero_iff : s.groupsMinus1 ≠ 0 ↔ s.conf numSliceGroupsMinus1 ≠ 0 :=
  not_congr ⟨fun h => BitVec.eq_of_toNat_eq h, congrArg BitVec.toNat⟩

theorem changingMap_iff :
    s.changingMap = true ↔ s.conf numSliceGroupsMinus1 ≠ 0 ∧ 3 ≤ s.mapType ∧ s.mapType ≤ 5 :=
  decide_eq_true_iff.trans (and_congr_left' groupsMinus1_ne_zero_iff)

variable (hg : s.groupsMinus1 ≠ 0)
include hg

theorem mapUnits_direction_error (hlow : 3 ≤ s.mapType) (hhigh : s.mapType ≤ 5)
    (hd : 1 < (s.conf sliceGroupChangeDirectionFlag).toNat) : mapUnits s = .error .hostProtocolError := by
  have hmapped : ¬6 < s.mapType := by omega
  simp [mapUnits, hg, hmapped, State.changingMap, hlow, hhigh, hd]

theorem mapUnits_interleaved (hty : s.mapType = 0) :
    mapUnits s = .ok (interleaved (fun j => (s.element .runLengthMinus1 j).toNat) s.groupsMinus1
      s.geo.picSizeInMapUnits.toNat 0 s.geo.picSizeInMapUnits.toNat) := by
  simp [mapUnits, hg, hty, State.changingMap]

theorem mapUnits_dispersed (hty : s.mapType = 1) :
    mapUnits s = .ok (dispersed s.geo.picWidthInMbs.toNat s.groupsMinus1 s.geo.picSizeInMapUnits.toNat) := by
  simp [mapUnits, hg, hty, State.changingMap]

theorem mapUnits_foreground (hty : s.mapType = 2) :
    mapUnits s =
      if ∃ g, g < s.groupsMinus1 ∧ (s.geo.picSizeInMapUnits.toNat ≤ (s.element .topLeft g).toNat ∨
        s.geo.picSizeInMapUnits.toNat ≤ (s.element .bottomRight g).toNat) then .error .hostProtocolError
      else .ok (foreground s.geo.picWidthInMbs.toNat s.groupsMinus1 s.geo.picSizeInMapUnits.toNat
        (fun g => (s.element .topLeft g).toNat) fun g => (s.element .bottomRight g).toNat) := by
  simp [mapUnits, hg, hty, State.changingMap, cornerOutside]

theorem mapUnits_explicit (hty : s.mapType = 6) :
    mapUnits s =
      if ∃ i, i < s.geo.picSizeInMapUnits.toNat ∧ 7 < (s.element .sliceGroupId i).toNat then .error .hostProtocolError
      else .ok (explicitIds s.geo.picSizeInMapUnits.toNat fun i => (s.element .sliceGroupId i).toNat) := by
  simp [mapUnits, hg, hty, State.changingMap]

variable (hd : (s.conf sliceGroupChangeDirectionFlag).toNat ≤ 1)
include hd

theorem mapUnits_boxOut (hty : s.mapType = 3) :
    mapUnits s = .ok (boxOut s.geo.picWidthInMbs.toNat s.geo.picHeightInMapUnits.toNat s.geo.picSizeInMapUnits.toNat
      (s.conf sliceGroupChangeDirectionFlag).toNat (mapUnitsInGroup0 s)) := by
  simp [mapUnits, hg, hty, Nat.not_lt.2 hd]

theorem mapUnits_rasterWipe (hty : s.mapType = 4) :
    mapUnits s = .ok (rasterWipe s.geo.picSizeInMapUnits.toNat (s.conf sliceGroupChangeDirectionFlag).toNat
      (mapUnitsInGroup0 s)) := by
  simp [mapUnits, hg, hty, Nat.not_lt.2 hd]

theorem mapUnits_columnWipe (hty : s.mapType = 5) :
    mapUnits s = .ok (columnWipe s.geo.picWidthInMbs.toNat s.geo.picHeightInMapUnits.toNat
      s.geo.picSizeInMapUnits.toNat (s.conf sliceGroupChangeDirectionFlag).toNat (mapUnitsInGroup0 s)) := by
  simp [mapUnits, hg, hty, Nat.not_lt.2 hd]

end

/-! ## The map units where `MapReady` says that the tests pass -/

namespace MapReady

variable {s : State} (h : MapReady s) (hg : s.groupsMinus1 ≠ 0)
include h hg

theorem mapType_le : s.mapType ≤ 6 := by
  obtain ⟨-, -, -, -, htypes⟩ := h
  exact (htypes hg).1

theorem direction_le (hlow : 3 ≤ s.mapType) (hhigh : s.mapType ≤ 5) :
    (s.conf sliceGroupChangeDirectionFlag).toNat ≤ 1 := by
  obtain ⟨-, -, -, -, htypes⟩ := h
  obtain ⟨-, hd, -⟩ := htypes hg
  exact hd hlow hhigh

theorem id_le (hty : s.mapType = 6) {i : Nat} (hi : i < s.geo.picSizeInMapUnits.toNat) :
    (s.element .sliceGroupId i).toNat ≤ 7 := by
  obtain ⟨-, -, -, -, htypes⟩ := h
  obtain ⟨-, -, -, hids⟩ := htypes hg
  exact hids hty i hi

theorem mapUnits_foreground (hty : s.mapType = 2) :
    mapUnits s = .ok (foreground s.geo.picWidthInMbs.toNat s.groupsMinus1 s.geo.picSizeInMapUnits.toNat
      (fun g => (s.element .topLeft g).toNat) fun g => (s.element .bottomRight g).toNat) := by
  obtain ⟨-, -, -, -, htypes⟩ := h
  obtain ⟨-, -, hcorners, -⟩ := htypes hg
  refine (Machine.mapUnits_foreground hg hty).trans (if_neg ?_)
  rintro ⟨g, hlt, hout⟩
  obtain ⟨htop, hbottom⟩ := hcorners hty g hlt
  omega

theorem mapUnits_explicit (hty : s.mapType = 6) :
    mapUnits s = .ok (explicitIds s.geo.picSizeInMapUnits.toNat fun i => (s.element .sliceGroupId i).toNat) := by
  refine (Machine.mapUnits_explicit hg hty).trans (if_neg ?_)
  rintro ⟨i, hi, hout⟩
  exact absurd (h.id_le hg hty hi) (Nat.not_le.2 hout)

omit hg

theorem exists_mapUnits : ∃ mu, mapUnits s = .ok mu := by
  by_cases hg : s.groupsMinus1 = 0
  · exact ⟨_, mapUnits_one_group hg⟩
  have hle := h.mapType_le hg
  have hd := h.direction_le hg
  obtain hty | hty | hty | hty | hty | hty | hty : s.mapType = 0 ∨ s.mapType = 1 ∨ s.mapType = 2 ∨ s.mapType = 3 ∨
    s.mapType = 4 ∨ s.mapType = 5 ∨ s.mapType = 6 := by omega
  · exact ⟨_, mapUnits_interleaved hg hty⟩
  · exact ⟨_, mapUnits_dispersed hg hty⟩
  · exact ⟨_, h.mapUnits_foreground hg hty⟩
  · exact ⟨_, mapUnits_boxOut hg (hd (by omega) (by omega)) hty⟩
  · exact ⟨_, mapUnits_rasterWipe hg (hd (by omega) (by omega)) hty⟩
  · exact ⟨_, mapUnits_columnWipe hg (hd (by omega) (by omega)) hty⟩
  · exact ⟨_, h.mapUnits_explicit hg hty⟩

end MapReady

/-! ## The tests of the picture (R190) -/

section

variable {s : State}

theorem mapIsIdentity_iff : s.mapIsIdentity = true ↔ s.conf frameMbsOnlyFlag = 1 ∨ s.conf fieldPicFlag = 1 := by
  simp [State.mapIsIdentity]

theorem noPicture_test {f : FaultClass} (hn : s.geo.picSizeInMapUnits.toNat ≠ 0) :
    raiseIf (s.geo.picSizeInMapUnits == 0) f = .ok () :=
  raiseIf_ok.2 (beq_eq_false_iff_ne.2 fun h => hn (congrArg BitVec.toNat h))

theorem unchanged_iff : (s.mapIsIdentity != (s.geo.picSizeInMbs == s.geo.picSizeInMapUnits)) = false ↔
    ((s.conf frameMbsOnlyFlag = 1 ∨ s.conf fieldPicFlag = 1) ↔ s.geo.picSizeInMbs = s.geo.picSizeInMapUnits) := by
  rw [← mapIsIdentity_iff, bne_eq_false_iff_eq, Bool.eq_iff_iff, beq_iff_eq]

/-- `SGMAP` after the tests of the picture has those of the groups to do. -/
theorem exec_sgmap_of_picture (hn : s.geo.picSizeInMapUnits.toNat ≠ 0) (hfits : WithinMaxMbs s s.geo.picSizeInMbs.toNat)
    (hsame : (s.conf frameMbsOnlyFlag = 1 ∨ s.conf fieldPicFlag = 1) ↔ s.geo.picSizeInMbs = s.geo.picSizeInMapUnits) :
    exec .sgmap s = s.command (raiseIf (decide (7 < s.groupsMinus1)) .configurationError >>= fun _ =>
      mapUnits s >>= fun mu => .ok (s.withMap (expandMap s mu))) := by
  change execSgmap s = _
  rw [execSgmap, noPicture_test hn, raiseIf_ok (u := ()).2 (overMaxMbs_false.2 hfits),
    raiseIf_ok (u := ()).2 (unchanged_iff.2 hsame)]
  rfl

theorem MapReady.exec_sgmap {mu : List GroupId} (h : MapReady s) (hrun : s.halted = false) (hmu : mapUnits s = .ok mu) :
    exec .sgmap s = .next (s.withMap (expandMap s mu)).retire := by
  obtain ⟨hn, hfits, hsame, hg, -⟩ := h
  rw [exec_sgmap_of_picture hn hfits hsame]
  exact command_completes hrun (ok_after (raiseIf_of_not (Nat.not_lt.2 hg)) (ok_after hmu rfl))

end

/-- Settles O43: each fault of the statement is the class that the first failing test of `SGMAP` raises. -/
theorem sgmapFaults : Obligations.SgmapFaults := by
  unfold Obligations.SgmapFaults
  intro s hrun n g1 ty raises unchanged fits
  refine ⟨fun h => ?picture, fun hn hfits hsame h => ?unmapped, fun hn hfits hsame hg hg7 h => ?values⟩
  case picture =>
    refine command_raises hrun nofun ?_
    rcases h with hn | hfits | hsame
    · exact error_first (raiseIf_error.2 ⟨beq_iff_eq.2 (BitVec.eq_of_toNat_eq hn), rfl⟩)
    · refine raisesOnly_raiseIf.error_of_rest fun _ => error_first (raiseIf_error.2 ⟨?_, rfl⟩)
      exact Bool.eq_true_of_not_eq_false fun h => hfits (overMaxMbs_false.1 h)
    · refine raisesOnly_raiseIf.error_of_rest fun _ => raisesOnly_raiseIf.error_of_rest fun _ =>
        error_first (raiseIf_error.2 ⟨?_, rfl⟩)
      exact Bool.eq_true_of_not_eq_false fun h => hsame (unchanged_iff.1 h)
  case unmapped =>
    simp only [raises, exec_sgmap_of_picture hn hfits hsame]
    refine command_raises hrun nofun ?_
    rcases h with hg7 | ⟨hg, hty⟩
    · exact error_first (raiseIf_of hg7)
    · exact raisesOnly_raiseIf.error_of_rest fun _ => error_first (mapUnits_unmapped hg hty)
  case values =>
    simp only [raises, exec_sgmap_of_picture hn hfits hsame]
    refine command_raises hrun nofun (error_after (raiseIf_of_not (Nat.not_lt.2 hg7)) (error_first ?_))
    rcases h with ⟨hlow, hhigh, hd⟩ | ⟨hty, hout⟩ | ⟨hty, hout⟩
    · exact mapUnits_direction_error hg hlow hhigh hd
    · exact (mapUnits_foreground hg hty).trans (if_pos hout)
    · exact (mapUnits_explicit hg hty).trans (if_pos hout)

/-! ## The expansion (R192, R201) -/

/-- The group of map unit `i`, 0 past the last. -/
def groupOf (mu : List GroupId) (i : Nat) : Nat := (mu[i]?.getD 0).toNat

theorem groupOf_le (mu : List GroupId) (i : Nat) : groupOf mu i ≤ 7 := Nat.le_of_lt_succ (mu[i]?.getD 0).isLt

/-- `MAP` gives each macroblock the group of its map unit. -/
theorem mapIs_of_mapUnitOf {s t : State} {f : Nat → Nat} {m : List GroupId} (hmap : t.map = some m)
    (hlen : m.length = s.geo.picSizeInMbs.toNat)
    (hm : ∀ i, i < s.geo.picSizeInMbs.toNat → m[i]? = some (BitVec.ofNat 3 (f (mapUnitOf s i)))) : MapIs s t f := by
  refine ⟨m, hmap, hlen, fun i hi => ?_⟩
  have hunit := hm i hi
  unfold mapUnitOf at hunit
  refine ⟨fun h => ?_, fun hframe hfield hmbaff => ?_, fun hframe hfield hmbaff => ?_⟩
  · rwa [if_pos (mapIsIdentity_iff.2 h)] at hunit
  all_goals rw [if_neg (mapIsIdentity_iff.not.2 (not_or.2 ⟨hframe, hfield⟩))] at hunit
  · rwa [if_pos hmbaff] at hunit
  · rwa [if_neg hmbaff] at hunit

theorem getElem?_expandMap {s : State} (mu : List GroupId) {i : Nat} (hi : i < s.geo.picSizeInMbs.toNat) :
    (expandMap s mu)[i]? = some (BitVec.ofNat 3 (groupOf mu (mapUnitOf s i))) := by
  simp [expandMap, groupOf, hi]

theorem mapIs_expandMap (s : State) (mu : List GroupId) :
    MapIs s (s.withMap (expandMap s mu)).retire (groupOf mu) :=
  mapIs_of_mapUnitOf rfl (length_expandMap s mu) fun _ => getElem?_expandMap mu

theorem toNat_mapUnitsInGroup0 (s : State) : (BitVec.ofNat 32 (mapUnitsInGroup0 s)).toNat = mapUnitsInGroup0 s :=
  Nat.mod_eq_of_lt ((mapUnitsInGroup0_le s).trans_lt s.geo.picSizeInMapUnits.isLt)

/-- Settles O41: the tests pass, and `withMap` changes `MAP` and, for map types 3 to 5, one derived register. -/
theorem sgmapCompletes : Obligations.SgmapCompletes := by
  unfold Obligations.SgmapCompletes
  intro s hrun hready m0 changing
  obtain ⟨mu, hmu⟩ := hready.exists_mapUnits
  refine ⟨_, groupOf mu, hready.exec_sgmap hrun hmu, mapIs_expandMap s mu, groupOf_le mu, ?_⟩
  by_cases hc : s.changingMap = true
  · refine ⟨?_, fun _ => ?_, fun h => absurd (changingMap_iff.1 hc) h⟩
    · simp [State.withMap, State.retire, hc]
    · simp only [State.geo_retire, State.geo_withMap, if_pos hc]
      exact toNat_mapUnitsInGroup0 s
  · refine ⟨?_, fun h => absurd (changingMap_iff.2 h) hc, fun _ => if_neg hc⟩
    simp [State.withMap, State.retire, hc]

end Sys2Proof.Machine
end

section
/-!
The group that `SGMAP` gives each map unit, by map type (R191 to R199), and the two properties of R204. Each rule has a
lemma about the list of groups the model builds; the box-out walk is that of `boxOut_count` and `boxOut_marks`.
-/

namespace Sys2Proof.Machine

theorem toNat_groupId {g : Nat} (h : g ≤ 7) : (groupId g).toNat = g :=
  (BitVec.toNat_ofNat g 3).trans (Nat.mod_eq_of_lt (Nat.lt_succ_of_le h))

theorem groupOf_of_getElem? {mu : List GroupId} {i g : Nat} (h : mu[i]? = some (groupId g)) (hg : g ≤ 7) :
    groupOf mu i = g := by
  rw [groupOf, h, Option.getD_some, toNat_groupId hg]

/-- Where a rule gives the group of each map unit by a formula. -/
theorem groupOf_map_range {n i : Nat} {f : Nat → Nat} (hi : i < n) (hf : f i ≤ 7) :
    groupOf ((List.range n).map fun i => groupId (f i)) i = f i :=
  groupOf_of_getElem? (by simp [hi]) hf

/-! ## Runs in turn (R193) -/

/-- The map unit of a round at which group `g` starts, where group `j` has a run of `run j + 1`. -/
def runStart (run : Nat → Nat) (g : Nat) : Nat := ((List.range g).map fun j => run j + 1).sum

theorem runStart_succ (run : Nat → Nat) (g : Nat) : runStart run (g + 1) = runStart run g + (run g + 1) := by
  simp [runStart, List.range_succ]

theorem runStart_mono (run : Nat → Nat) : Monotone (runStart run) :=
  monotone_nat_of_le_succ fun g => runStart_succ run g ▸ Nat.le_add_right _ _

/-- The runs do not overlap. -/
theorem runStart_inj {run : Nat → Nat} {g k p : Nat} (hg : runStart run g ≤ p) (hg' : p < runStart run (g + 1))
    (hk : runStart run k ≤ p) (hk' : p < runStart run (k + 1)) : g = k := by
  have hle : ∀ {a b : Nat}, runStart run a ≤ p → p < runStart run (b + 1) → a ≤ b := fun ha hb =>
    Nat.le_of_lt_succ ((runStart_mono run).reflect_lt (ha.trans_lt hb))
  exact Nat.le_antisymm (hle hg hk') (hle hk hg')

/-- From group `g` on, unit `i` is in the group whose run holds position `start g + i` of its round. -/
theorem getElem?_interleaved (run : Nat → Nat) {g1 k : Nat} (hk : k ≤ g1) (rounds : Nat) :
    ∀ {g rest i : Nat}, g ≤ g1 → rest ≤ rounds → i < rest →
      runStart run k ≤ (runStart run g + i) % runStart run (g1 + 1) →
      (runStart run g + i) % runStart run (g1 + 1) < runStart run (k + 1) →
      (interleaved run g1 rounds g rest)[i]? = some (groupId k) := by
  induction rounds with
  | zero => intro g rest i _ hrest hi; omega
  | succ rounds ih =>
    intro g rest i hg hrest hi hlow hhigh
    have hsucc := runStart_succ run g
    rw [interleaved, if_neg (by omega), List.getElem?_append, List.length_replicate]
    by_cases hrun : i < run g + 1
    · have hround : runStart run (g + 1) ≤ runStart run (g1 + 1) := runStart_mono run (Nat.succ_le_succ hg)
      rw [Nat.mod_eq_of_lt (by omega)] at hlow hhigh
      obtain rfl : g = k := runStart_inj (by omega) (by omega) hlow hhigh
      rw [if_pos (by omega), List.getElem?_replicate, if_pos (by omega)]
    · have hmin : min (run g + 1) rest = run g + 1 := Nat.min_eq_left (by omega)
      rw [hmin, if_neg hrun]
      have hnext : (runStart run (if g < g1 then g + 1 else 0) + (i - (run g + 1))) % runStart run (g1 + 1) =
          (runStart run g + i) % runStart run (g1 + 1) := by
        split
        case isTrue => congr 1; omega
        case isFalse hlast =>
          obtain rfl : g = g1 := by omega
          rw [show runStart run g + i = i - (run g + 1) + runStart run (g + 1) by omega, Nat.add_mod_right]
          congr 1
          exact Nat.zero_add _
      refine ih ?_ (by omega) (by omega) (hnext ▸ hlow) (hnext ▸ hhigh)
      split <;> omega

/-! ## Rectangles (R195) -/

/-- Painting rectangles over one another, the first on top, leaves a unit in the first that holds it. -/
theorem getElem?_foldr_paint (inside : Nat → Nat → Bool) (gs : List Nat) (mu : List GroupId) (i : Nat) :
    (gs.foldr (fun g mu => mu.mapIdx fun i v => if inside g i then groupId g else v) mu)[i]? =
      mu[i]?.map fun v => ((gs.find? (inside · i)).map groupId).getD v := by
  induction gs with
  | nil => simp
  | cons g gs ih =>
    rw [List.foldr_cons, List.getElem?_mapIdx, ih, Option.map_map, List.find?_cons]
    cases inside g i <;> rfl

theorem getElem?_foreground (w g1 : Nat) {n i : Nat} (topLeft bottomRight : Nat → Nat) (hi : i < n) :
    (foreground w g1 n topLeft bottomRight)[i]? =
      some (groupId (((List.range g1).find? fun g => inRectangle w (topLeft g) (bottomRight g) i).getD g1)) := by
  rw [foreground, getElem?_foldr_paint fun g => inRectangle w (topLeft g) (bottomRight g),
    List.getElem?_replicate_of_lt hi, Option.map_some, Option.getD_map]

/-- The lowest-numbered rectangle that holds the unit gives its group. -/
theorem getElem?_foreground_inside {w g1 n i g : Nat} {topLeft bottomRight : Nat → Nat} (hi : i < n) (hg : g < g1)
    (hin : inRectangle w (topLeft g) (bottomRight g) i = true)
    (hfirst : ∀ j, j < g → inRectangle w (topLeft j) (bottomRight j) i = false) :
    (foreground w g1 n topLeft bottomRight)[i]? = some (groupId g) := by
  have hfind : (List.range g1).find? (fun g => inRectangle w (topLeft g) (bottomRight g) i) = some g := by
    rw [List.find?_range_eq_some]
    exact ⟨hin, List.mem_range.2 hg, fun j hj => by rw [hfirst j hj]; rfl⟩
  rw [getElem?_foreground w g1 topLeft bottomRight hi, hfind, Option.getD_some]

theorem getElem?_foreground_outside {w g1 n i : Nat} {topLeft bottomRight : Nat → Nat} (hi : i < n)
    (hout : ∀ g, g < g1 → inRectangle w (topLeft g) (bottomRight g) i = false) :
    (foreground w g1 n topLeft bottomRight)[i]? = some (groupId g1) := by
  have hfind : (List.range g1).find? (fun g => inRectangle w (topLeft g) (bottomRight g) i) = none := by
    rw [List.find?_range_eq_none]
    exact fun g hg => by rw [hout g hg]; rfl
  rw [getElem?_foreground w g1 topLeft bottomRight hi, hfind, Option.getD_none]

/-! ## Every rule but box-out -/

/-- Settles O42: `mapUnits` has one list for each map type, and its entries are those of the type's rule. -/
theorem sgmapGroups : Obligations.SgmapGroups := by
  unfold Obligations.SgmapGroups
  intro s hrun hready hgeo w h n g1 ty d m0 split start inside
  obtain ⟨mu, hmu⟩ := hready.exists_mapUnits
  have hmu_eq : ∀ {l : List GroupId}, mapUnits s = .ok l → mu = l := fun hl => Except.ok.inj (hmu.symm.trans hl)
  have hd : g1 ≠ 0 → 3 ≤ ty → ty ≤ 5 → d ≤ 1 := hready.direction_le
  have hg7 : g1 ≤ 7 := by obtain ⟨-, -, -, hg7, -⟩ := hready; exact hg7
  refine ⟨_, groupOf mu, hready.exec_sgmap hrun hmu, mapIs_expandMap s mu, fun i hi =>
    ⟨fun hg => ?one, fun hg hty g hle hlow hhigh => ?runs, fun hg hty => ?dispersed,
      fun hg hty => ⟨fun g hlt hin hfirst => ?rectangle, fun hout => ?background⟩, fun hg hty => ?raster,
      fun hg hty => ?column, fun hg hty => ?explicit⟩⟩
  case one =>
    obtain rfl := hmu_eq (mapUnits_one_group hg)
    exact groupOf_of_getElem? (List.getElem?_replicate_of_lt hi) (by decide)
  case runs =>
    obtain rfl := hmu_eq (mapUnits_interleaved hg hty)
    have hstart : runStart (fun j => (s.element .runLengthMinus1 j).toNat) 0 + i = i := Nat.zero_add i
    exact groupOf_of_getElem? (getElem?_interleaved _ hle _ (Nat.zero_le _) le_rfl hi (hstart.symm ▸ hlow)
      (hstart.symm ▸ hhigh)) (hle.trans hg7)
  case dispersed =>
    obtain rfl := hmu_eq (mapUnits_dispersed hg hty)
    exact groupOf_map_range hi (Nat.le_of_lt_succ ((Nat.mod_lt _ g1.succ_pos).trans_le (Nat.succ_le_succ hg7)))
  case rectangle =>
    obtain rfl := hmu_eq (hready.mapUnits_foreground hg hty)
    exact groupOf_of_getElem? (getElem?_foreground_inside hi hlt (decide_eq_true hin)
      fun j hj => decide_eq_false (hfirst j hj)) (hlt.le.trans hg7)
  case background =>
    obtain rfl := hmu_eq (hready.mapUnits_foreground hg hty)
    exact groupOf_of_getElem? (getElem?_foreground_outside hi fun g hlt => decide_eq_false (hout g hlt)) hg7
  case raster =>
    have hd := hd hg (by omega) (by omega)
    obtain rfl := hmu_eq (mapUnits_rasterWipe hg hd hty)
    refine groupOf_map_range hi ?_
    split <;> omega
  case column =>
    have hd := hd hg (by omega) (by omega)
    obtain rfl := hmu_eq (mapUnits_columnWipe hg hd hty)
    refine groupOf_map_range hi ?_
    split <;> omega
  case explicit =>
    obtain rfl := hmu_eq (hready.mapUnits_explicit hg hty)
    exact groupOf_map_range hi (hready.id_le hg hty hi)

/-! ## The map units of the macroblocks (R201) -/

/-- The map unit of each macroblock is in the picture. -/
theorem mapUnitOf_lt {s : State} (hready : MapReady s) (hgeo : GeometryFits s) {i : Nat}
    (hi : i < s.geo.picSizeInMbs.toNat) : mapUnitOf s i < s.geo.picSizeInMapUnits.toNat := by
  obtain ⟨hn, -, hsame, -⟩ := hready
  obtain ⟨harea, -, -, htwice, -⟩ := hgeo
  simp only [mapUnitOf]
  split_ifs with hid hmbaff
  · rwa [← hsame.1 (mapIsIdentity_iff.1 hid)]
  · omega
  · set w := s.geo.picWidthInMbs.toNat
    set h := s.geo.picHeightInMapUnits.toNat
    have hw : 0 < w := Nat.pos_of_ne_zero fun h0 => hn (by rw [harea, h0, Nat.zero_mul])
    have hrow : i / (2 * w) < h := Nat.div_lt_of_lt_mul (by rw [Nat.mul_assoc]; omega)
    calc i / (2 * w) * w + i % w < i / (2 * w) * w + w := Nat.add_lt_add_left (Nat.mod_lt i hw) _
      _ = (i / (2 * w) + 1) * w := (Nat.succ_mul _ _).symm
      _ ≤ h * w := Nat.mul_le_mul_right w hrow
      _ = s.geo.picSizeInMapUnits.toNat := by rw [harea, Nat.mul_comm]

/-- `MapIs` depends on the groups of the picture's map units only. -/
theorem mapIs_of_groups {s : State} (hready : MapReady s) (hgeo : GeometryFits s) {mu : List GroupId} {f : Nat → Nat}
    (hf : ∀ i, i < s.geo.picSizeInMapUnits.toNat → groupOf mu i = f i) :
    MapIs s (s.withMap (expandMap s mu)).retire f :=
  mapIs_of_mapUnitOf rfl (length_expandMap s mu) fun i hi => by
    rw [getElem?_expandMap mu hi, hf _ (mapUnitOf_lt hready hgeo hi)]

/-! ## The properties of R204 -/

/-- Two groups with runs of one alternate. -/
theorem groupOf_alternating {run : Nat → Nat} (h0 : run 0 = 0) (h1 : run 1 = 0) {n i : Nat} (hi : i < n) :
    groupOf (interleaved run 1 n 0 n) i = i % 2 := by
  have hstart1 : runStart run 1 = 1 := by simp [runStart, h0]
  have hstart2 : runStart run 2 = 2 := by simp [runStart, List.range_succ, h0, h1]
  refine groupOf_of_getElem? (getElem?_interleaved run (by omega) n (Nat.zero_le 1) le_rfl hi ?_ ?_) (by omega)
  all_goals
    rw [show runStart run 0 + i = i from Nat.zero_add i, hstart2]
    obtain h | h := Nat.mod_two_eq_zero_or_one i <;> rw [h]
  · exact Nat.le_refl 0
  · exact hstart1.le
  · rw [hstart1]; exact Nat.zero_lt_one
  · rw [hstart2]; exact Nat.one_lt_two

/-- The walk starts at `((W - d) / 2, (H - d) / 2)`. -/
theorem walkStart_mem_visited (w h d j : Nat) : (h - d) / 2 * w + (w - d) / 2 ∈ visited w h d (j + 1) := by
  refine List.mem_map.2 ⟨0, List.mem_range.2 j.succ_pos, ?_⟩
  simp only [spiral]
  norm_cast

theorem walkStart_lt {w h : Nat} (d : Nat) (hw : 0 < w) (hh : 0 < h) : (h - d) / 2 * w + (w - d) / 2 < w * h := by
  have hx : (w - d) / 2 < w := by omega
  have hy : (h - d) / 2 + 1 ≤ h := by omega
  calc (h - d) / 2 * w + (w - d) / 2 < ((h - d) / 2 + 1) * w := by rw [Nat.succ_mul]; omega
    _ ≤ h * w := Nat.mul_le_mul_right w hy
    _ = w * h := Nat.mul_comm h w

/-- A walk that has visited nothing has given no unit the group 0. -/
theorem count_zero_of_marks {w h d : Nat} {mu : List GroupId} (h0 : BoxOutWalk.Marks w h d 0 mu) : mu.count 0 = 0 := by
  obtain ⟨hlen, hmarks⟩ := h0
  refine List.count_eq_zero.2 fun hmem => ?_
  obtain ⟨i, hzero⟩ := List.mem_iff_getElem?.1 hmem
  obtain ⟨hi, -⟩ := List.getElem?_eq_some_iff.1 hzero
  have hone := hmarks i (hlen ▸ hi)
  rw [hzero] at hone
  exact absurd hone (by simp [visited])

/-- The first unit that box-out gives group 0 is the one the walk starts at. -/
theorem boxOut_start {w h d m0 : Nat} (hd : d = 0 ∨ d = 1) (hw : 0 < w) (hh : 0 < h) (hm : m0 ≤ w * h) (hpos : 0 < m0) :
    (boxOut w h (w * h) d m0)[(h - d) / 2 * w + (w - d) / 2]? = some 0 := by
  obtain ⟨-, hcount, -⟩ := boxOut_count hd hw hh hm
  obtain ⟨j, hj⟩ := boxOut_marks w h d m0
  cases j with
  | zero => exact absurd (hcount.symm.trans (count_zero_of_marks hj)) hpos.ne'
  | succ j =>
    obtain ⟨-, hmarks⟩ := hj
    rw [hmarks _ (walkStart_lt d hw hh), if_pos (walkStart_mem_visited w h d j)]

/-- Settles O44: runs of one repeat every two units, and the box-out walk ends by count. -/
theorem sgmapProperties : Obligations.SgmapProperties := by
  unfold Obligations.SgmapProperties
  intro s hrun hready hgeo n w h d m0
  refine ⟨fun hgroups htype h0 h1 => ?alternating, fun hgroups htype => ?boxOut⟩
  case alternating =>
    have hg : s.groupsMinus1 = 1 := congrArg BitVec.toNat hgroups
    have hmu := mapUnits_interleaved (s := s) (by omega) (congrArg BitVec.toNat htype)
    refine ⟨_, hready.exec_sgmap hrun hmu, mapIs_of_groups hready hgeo fun i hi => ?_⟩
    rw [hg]
    exact groupOf_alternating (congrArg BitVec.toNat h0) (congrArg BitVec.toNat h1) hi
  case boxOut =>
    have hg : s.groupsMinus1 ≠ 0 := groupsMinus1_ne_zero_iff.2 hgroups
    have hty : s.mapType = 3 := congrArg BitVec.toNat htype
    have hd : d ≤ 1 := hready.direction_le hg hty.ge (hty.symm ▸ by decide)
    have hmu := mapUnits_boxOut hg hd hty
    have hn : n ≠ 0 := by obtain ⟨hn, -⟩ := hready; exact hn
    have harea : n = w * h := by obtain ⟨harea, -⟩ := hgeo; exact harea
    have hm : m0 ≤ w * h := harea ▸ Nat.min_le_right _ _
    have hw : 0 < w := Nat.pos_of_ne_zero fun h0 => hn (by rw [harea, h0, Nat.zero_mul])
    have hh : 0 < h := Nat.pos_of_ne_zero fun h0 => hn (by rw [harea, h0, Nat.mul_zero])
    have hd01 : d = 0 ∨ d = 1 := Nat.le_one_iff_eq_zero_or_eq_one.1 hd
    refine ⟨_, boxOut w h n d m0, hready.exec_sgmap hrun hmu, ?_, mapIs_expandMap s _, ?_⟩
    all_goals rw [harea]
    all_goals obtain ⟨hlen, hcount, -⟩ := boxOut_count hd01 hw hh hm
    · exact hlen
    · obtain ⟨j, -, hmarks⟩ := boxOut_marks w h d m0
      exact ⟨hcount, boxOut_start hd01 hw hh hm, j, hmarks⟩

end Sys2Proof.Machine
end

section
/-! `MAPRD` reads one entry of `MAP` (R205). -/

namespace Sys2Proof.Machine

/-- Settles O45: the three tests pass with a map and an address in the picture, and one of the first two fails else. -/
theorem maprdReads : Obligations.MaprdReads := by
  unfold Obligations.MaprdReads
  intro rd ra s hrun
  refine ⟨fun m g hm hin hg => ?_, fun h => command_raises hrun nofun ?_⟩
  · refine ⟨_, command_completes hrun (ok_after (orRaise_ok.2 hm) (ok_after (raiseIf_of_not (Nat.not_le.2 hin))
      (ok_after (orRaise_ok.2 hg) rfl))), ?_, writesOnly_setNat s rd g.toNat⟩
    rw [State.reg_retire, State.reg_setNat_same]
    exact Nat.mod_eq_of_lt (g.isLt.trans (by decide))
  · rcases h with hnone | hpast
    · exact error_first (orRaise_error.2 ⟨hnone, rfl⟩)
    · exact raisesOnly_orRaise.error_of_rest fun _ => error_first (raiseIf_of hpast)

end Sys2Proof.Machine
end

section
/-!
`NEIGH` (R220 to R226, R230 to R233): the tests of R220, what it answers inside the macroblock and outside it in the
non-MBAFF regime, and the entries of R233.
-/

namespace Sys2Proof.Machine

/-! ## Tests of a condition that must hold -/

theorem raiseIf_not_ok {b : Bool} (f : FaultClass) (h : b = true) : raiseIf (!b) f = .ok () := by
  rw [h, Bool.not_true, raiseIf_false]

theorem raiseIf_not_error {b : Bool} (f : FaultClass) (h : b = false) : raiseIf (!b) f = .error f := by
  rw [h, Bool.not_false, raiseIf_true]

/-! ## Finding a record by its address (R44) -/

theorem lookup_isSome {s : State} {a : Nat} :
    (s.lookup a).isSome = true ↔ ∃ (i : Nat) (m : MbRecord), s.records[i]? = some m ∧ m.addr.toNat = a := by
  rw [State.lookup, List.findIdx?_isSome, List.any_eq_true]
  simp only [decide_eq_true_eq, List.mem_iff_getElem?, ← exists_and_right]
  exact exists_comm

theorem lookup_lt {s : State} {a i : Nat} (h : s.lookup a = some i) : i < s.records.length :=
  (List.findIdx?_eq_some_iff_getElem.1 h).1

/-- Addresses rise strictly, so a record is the only one with its address (R44). -/
theorem RecordsOrdered.lookup_eq {s : State} (h : RecordsOrdered s) {i : Nat} {m : MbRecord}
    (hm : s.records[i]? = some m) : s.lookup m.addr.toNat = some i := by
  obtain ⟨-, hrise⟩ := h
  obtain ⟨hi, hget⟩ := List.getElem?_eq_some_iff.1 hm
  refine List.findIdx?_eq_some_iff_getElem.2 ⟨hi, decide_eq_true (by rw [hget]), fun j hj => ?_⟩
  have hlt := hrise j i _ m hj (List.getElem?_eq_getElem (hj.trans hi)) hm
  simpa using hlt.ne

/-! ## Availability (R222, R226) -/

theorem sameGroup_iff {s : State} {a b : Nat} : s.sameGroup a b = true ↔ ∀ g, s.map = some g → g[a]? = g[b]? := by
  unfold State.sameGroup
  cases s.map <;> simp

theorem available_iff {s : State} {a : Nat} {c : Int} : s.available a c = true ↔ ∃ i, AvailableAt s a c i := by
  simp only [State.available, AvailableAt, Bool.and_eq_true, decide_eq_true_eq, lookup_isSome, sameGroup_iff]
  constructor
  · rintro ⟨⟨⟨⟨h0, hpic⟩, i, hi⟩, hle⟩, hgroup⟩
    exact ⟨i, h0, hpic, hi, hle, hgroup⟩
  · rintro ⟨i, h0, hpic, hi, hle, hgroup⟩
    exact ⟨⟨⟨⟨h0, hpic⟩, i, hi⟩, hle⟩, hgroup⟩

theorem ifAvailable_of_availableAt {s : State} {a i : Nat} {c : Int} (h : AvailableAt s a c i) :
    s.ifAvailable a c = some c.toNat := if_pos (available_iff.2 ⟨i, h⟩)

theorem ifAvailable_of_not {s : State} {a : Nat} {c : Int} (h : ∀ i, ¬AvailableAt s a c i) :
    s.ifAvailable a c = none := if_neg fun hc => (available_iff.1 hc).elim h

/-- An available address is found at the index where it stands. -/
theorem AvailableAt.lookup_eq {s : State} {a i : Nat} {c : Int} (h : AvailableAt s a c i) (hs : RecordsOrdered s) :
    s.lookup c.toNat = some i := by
  obtain ⟨-, -, ⟨n, hn, haddr⟩, -⟩ := h
  exact haddr ▸ hs.lookup_eq hn

/-! ## Regions (R232) -/

theorem regionOf_neg {v : Int} (max : Nat) (h : v < 0) : regionOf v max = .neg := if_pos h

theorem regionOf_inside {v : Int} {max : Nat} (h0 : 0 ≤ v) (h : v < max) : regionOf v max = .inside := by
  rw [regionOf, if_neg (not_lt.2 h0), if_pos h]

theorem regionOf_over {v : Int} {max : Nat} (h : (max : Int) ≤ v) : regionOf v max = .over := by
  rw [regionOf, if_neg (by omega), if_neg (not_lt.2 h)]

/-! ## The macroblock the engine finds (R220) -/

/-- `(addrN, yM)` in the regime of the picture (R220). -/
def State.found (s : State) (cur : MbRecord) (chroma : Bool) (o : FrameOverride) (x y : Int) : Option (Nat × Int) :=
  if s.geo.mbaffFrameFlag = 0 then
    nonMbaff s cur.addr.toNat (regionOf x (s.mbSize chroma).1) (regionOf y (s.mbSize chroma).2) y
  else mbaff s cur o (regionOf x (s.mbSize chroma).1) (regionOf y (s.mbSize chroma).2) y (s.mbSize chroma).2

/-- What the engine answers for `(addrN, yM)` (R220). -/
def State.resolve (s : State) (chroma : Bool) (x : Int) (found : Option (Nat × Int)) : Option Resolved :=
  found.bind fun p =>
    (s.lookup p.1).map fun i =>
      { index := i
        xW := ((x + (s.mbSize chroma).1) % (s.mbSize chroma).1).toNat
        yW := ((p.2 + (s.mbSize chroma).2) % (s.mbSize chroma).2).toNat }

/-- The tests of R220: a chroma array, a picture begun, an offset inside the window. -/
def InWindow (s : State) (chroma : Bool) (x y : Int) : Prop :=
  (chroma = true → s.geo.chromaArrayType ≠ 0) ∧ s.geo.picWidthInMbs ≠ 0 ∧
    -((s.mbSize chroma).1 : Int) ≤ x ∧ x ≤ 2 * (s.mbSize chroma).1 - 1 ∧
    -((s.mbSize chroma).2 : Int) ≤ y ∧ y ≤ 2 * (s.mbSize chroma).2 - 1

/-- `maxW` as the statements write it. -/
theorem mbSize_fst (s : State) (chroma : Bool) :
    (if chroma then (s.geo.mbWidthC.toNat : Int) else 16) = (s.mbSize chroma).1 := by
  cases chroma <;> rfl

/-- `maxH` as the statements write it. -/
theorem mbSize_snd (s : State) (chroma : Bool) :
    (if chroma then (s.geo.mbHeightC.toNat : Int) else 16) = (s.mbSize chroma).2 := by
  cases chroma <;> rfl

theorem mbSize_lt (s : State) (chroma : Bool) : (s.mbSize chroma).1 < 2 ^ 32 ∧ (s.mbSize chroma).2 < 2 ^ 32 := by
  cases chroma
  · exact ⟨show 16 < 2 ^ 32 by decide, show 16 < 2 ^ 32 by decide⟩
  · exact ⟨s.geo.mbWidthC.isLt, s.geo.mbHeightC.isLt⟩

theorem neighbour_of_inWindow {s : State} {chroma : Bool} {x y : Int} (h : InWindow s chroma x y) (cur : MbRecord)
    (o : FrameOverride) : neighbour s cur chroma o x y = .ok (s.resolve chroma x (s.found cur chroma o x y)) := by
  obtain ⟨hchroma, hpic, hwindow⟩ := h
  refine ok_after (a := ()) (raiseIf_ok.2 ?_) (ok_after (a := ()) (raiseIf_ok.2 (beq_eq_false_iff_ne.2 hpic))
    (ok_after (raiseIf_not_ok _ (decide_eq_true hwindow)) rfl))
  cases chroma
  · rfl
  · exact beq_eq_false_iff_ne.2 (hchroma rfl)

theorem neighbour_of_not_inWindow {s : State} {chroma : Bool} {x y : Int} (h : ¬InWindow s chroma x y) (cur : MbRecord)
    (o : FrameOverride) : neighbour s cur chroma o x y = .error .hostProtocolError := by
  have hraises : RaisesOnly .hostProtocolError (neighbour s cur chroma o x y) :=
    raisesOnly_bind raisesOnly_raiseIf fun _ => raisesOnly_bind raisesOnly_raiseIf fun _ =>
      raisesOnly_bind raisesOnly_raiseIf fun _ => raisesOnly_ok _
  refine hraises.error_of_not_ok fun n hn => h ?_
  simp only [neighbour, bind_ok, raiseIf_ok] at hn
  obtain ⟨_, hchroma, _, hpic, _, hwindow, _⟩ := hn
  refine ⟨?_, beq_eq_false_iff_ne.1 hpic, by simpa using hwindow⟩
  rintro rfl
  exact beq_eq_false_iff_ne.1 hchroma

theorem InWindow.pos {s : State} {chroma : Bool} {x y : Int} (h : InWindow s chroma x y) :
    0 < (s.mbSize chroma).1 ∧ 0 < (s.mbSize chroma).2 := by
  obtain ⟨-, -, hx, hx', hy, hy'⟩ := h
  omega

theorem toNat_emod {v : Int} {max : Nat} (h : 0 < max) :
    ((v % max).toNat : Int) = v % max ∧ (v % max).toNat < max := by
  have h0 := Int.emod_nonneg v (b := max) (by omega)
  have hlt := Int.emod_lt_of_pos v (b := max) (by omega)
  omega

/-- A macroblock found is a record, and the position lies inside it (R220). -/
theorem resolve_some {s : State} {chroma : Bool} {x y : Int} (h : InWindow s chroma x y) {found : Option (Nat × Int)}
    {n : Resolved} (hn : s.resolve chroma x found = some n) :
    n.index < s.records.length ∧ (n.xW : Int) = (x + (s.mbSize chroma).1) % (s.mbSize chroma).1 ∧
      n.xW < (s.mbSize chroma).1 ∧ n.yW < (s.mbSize chroma).2 := by
  obtain ⟨hW, hH⟩ := h.pos
  obtain ⟨⟨addrN, yM⟩, -, hmap⟩ := Option.bind_eq_some_iff.1 hn
  obtain ⟨i, hi, rfl⟩ := Option.map_eq_some_iff.1 hmap
  exact ⟨lookup_lt hi, (toNat_emod hW).1, (toNat_emod hW).2, (toNat_emod hH).2⟩

theorem resolve_of_lookup {s : State} {a i : Nat} (h : s.lookup a = some i) (chroma : Bool) (x yM : Int) :
    s.resolve chroma x (some (a, yM)) = some
      { index := i
        xW := ((x + (s.mbSize chroma).1) % (s.mbSize chroma).1).toNat
        yW := ((yM + (s.mbSize chroma).2) % (s.mbSize chroma).2).toNat } := by
  rw [State.resolve, Option.bind_some, h, Option.map_some]

/-! ## The three results of `NEIGH` (R220, R221) -/

theorem writesOnly_setResolved (s : State) (rd : Reg) (n : Option Resolved) :
    WritesOnly [rd, regAfter rd, regAfter (regAfter rd)] s (s.setResolved rd n).retire := by
  cases n with
  | none => exact writesOnly_setReg3 ..
  | some n => exact writesOnly_setReg3 ..

/-- The registers after three writes in a row from `rd`. -/
theorem reg_setReg3 (s : State) (rd : Reg) (u v w : Word) :
    let t := (((s.setReg rd u).setReg (regAfter rd) v).setReg (regAfter (regAfter rd)) w).retire
    t.reg rd = u ∧ t.reg (regAfter rd) = v ∧ t.reg (regAfter (regAfter rd)) = w := by
  simp [(regAfter_ne _).symm, (regAfter_regAfter_ne _).symm]

theorem notAvailable_setResolved (s : State) (rd : Reg) : NotAvailable rd (s.setResolved rd none).retire :=
  reg_setReg3 ..

theorem reg_setResolved {s : State} {chroma : Bool} {x y : Int} (h : InWindow s chroma x y) (rd : Reg)
    {found : Option (Nat × Int)} {n : Resolved} (hn : s.resolve chroma x found = some n) :
    let t := (s.setResolved rd (some n)).retire
    t.reg rd = BitVec.ofNat 32 n.index ∧ (t.reg (regAfter rd)).toNat = n.xW ∧
      (t.reg (regAfter (regAfter rd))).toNat = n.yW := by
  obtain ⟨-, -, hxW, hyW⟩ := resolve_some h hn
  obtain ⟨hmaxW, hmaxH⟩ := mbSize_lt s chroma
  obtain ⟨hrd, hrd1, hrd2⟩ := reg_setReg3 s rd (.ofNat 32 n.index) (.ofNat 32 n.xW) (.ofNat 32 n.yW)
  exact ⟨hrd, (congrArg BitVec.toNat hrd1).trans (Nat.mod_eq_of_lt (hxW.trans hmaxW)),
    (congrArg BitVec.toNat hrd2).trans (Nat.mod_eq_of_lt (hyW.trans hmaxH))⟩

/-- The results where a macroblock is found that has a record. -/
theorem reg_setResolved_of_lookup {s : State} {chroma : Bool} {x y : Int} (h : InWindow s chroma x y) (rd : Reg)
    {a i : Nat} (hi : s.lookup a = some i) (yM : Int) :
    let t := (s.setResolved rd (s.resolve chroma x (some (a, yM)))).retire
    t.reg rd = BitVec.ofNat 32 i ∧
      ((t.reg (regAfter rd)).toNat : Int) = (x + (s.mbSize chroma).1) % (s.mbSize chroma).1 ∧
      ((t.reg (regAfter (regAfter rd))).toNat : Int) = (yM + (s.mbSize chroma).2) % (s.mbSize chroma).2 := by
  obtain ⟨hW, hH⟩ := h.pos
  have hn := resolve_of_lookup hi chroma x yM
  obtain ⟨hrd, hrd1, hrd2⟩ := reg_setResolved h rd hn
  simp only [hn]
  exact ⟨hrd, (congrArg Nat.cast hrd1).trans (toNat_emod hW).1, (congrArg Nat.cast hrd2).trans (toNat_emod hH).1⟩

/-! ## The command -/

section

variable {s : State} (hrun : s.halted = false) {rd ra : Reg} (hrd : rd.val ≤ 13) {m : MbRecord}
  (hnames : NamesRecord s (s.u ra) m) {chroma : Bool} (o : FrameOverride) {rb rc : Reg}
include hrun hrd hnames

theorem exec_neigh (h : InWindow s chroma (s.s rb) (s.s rc)) :
    exec (.neigh chroma o rd ra rb rc) s = .next (s.setResolved rd (s.resolve chroma (s.s rb)
      (s.found m chroma o (s.s rb) (s.s rc)))).retire :=
  command_completes hrun (ok_after (raiseIf_of_not (Nat.not_lt.2 hrd)) (ok_after (recordOperand_ok.2 hnames)
    (ok_after (neighbour_of_inWindow h m o) rfl)))

theorem exec_neigh_raises (h : ¬InWindow s chroma (s.s rb) (s.s rc)) :
    ∃ t, exec (.neigh chroma o rd ra rb rc) s = .next t ∧ Raises .hostProtocolError s t :=
  command_raises hrun nofun (error_after (raiseIf_of_not (Nat.not_lt.2 hrd)) (error_after (recordOperand_ok.2 hnames)
    (error_first (neighbour_of_not_inWindow h m o))))

theorem exec_neigh_notAvailable (h : InWindow s chroma (s.s rb) (s.s rc))
    (hfound : s.found m chroma o (s.s rb) (s.s rc) = none) :
    ∃ t, exec (.neigh chroma o rd ra rb rc) s = .next t ∧ NotAvailable rd t :=
  ⟨_, exec_neigh hrun hrd hnames o h, hfound ▸ notAvailable_setResolved s rd⟩

end

/-- Settles O46: the three tests of R220 pass just inside the window, and a macroblock found is a record. -/
theorem neighCompletes : Obligations.NeighCompletes := by
  unfold Obligations.NeighCompletes
  intro chroma o rd ra rb rc s m hrun hrd hnames
  rw [mbSize_fst, mbSize_snd]
  intro maxW maxH legal
  refine ⟨fun h => ⟨_, exec_neigh hrun hrd hnames o h, writesOnly_setResolved .., ?_⟩,
    fun h => exec_neigh_raises hrun hrd hnames o h⟩
  rw [neighbour_of_inWindow h]
  cases hn : s.resolve chroma (s.s rb) (s.found m chroma o (s.s rb) (s.s rc)) with
  | none => exact .inl ⟨rfl, notAvailable_setResolved s rd⟩
  | some n =>
    obtain ⟨hindex, hxW, -, hyW⟩ := resolve_some h hn
    obtain ⟨hrd, hrd1, hrd2⟩ := reg_setResolved h rd hn
    exact .inr ⟨n, rfl, hindex, hrd, hrd1, hrd2, hxW, Int.ofNat_lt.2 hyW⟩

/-! ## Inside the macroblock (R224, R233) -/

theorem found_inside {s : State} {chroma : Bool} {x y : Int} (cur : MbRecord) (o : FrameOverride) (hx : 0 ≤ x)
    (hx' : x < (s.mbSize chroma).1) (hy : 0 ≤ y) (hy' : y < (s.mbSize chroma).2) :
    s.found cur chroma o x y = some (cur.addr.toNat, y) := by
  rw [State.found, regionOf_inside hx hx', regionOf_inside hy hy']
  split
  · rfl
  · rfl

/-- Inside the macroblock `NEIGH` answers the macroblock itself, in both regimes. -/
theorem reg_setResolved_inside {s : State} (hs : RecordsOrdered s) {ra : Reg} {m : MbRecord}
    (hnames : NamesRecord s (s.u ra) m) {chroma : Bool} {x y : Int} (h : InWindow s chroma x y) (o : FrameOverride)
    (rd : Reg) (hx : 0 ≤ x) (hx' : x < (s.mbSize chroma).1) (hy : 0 ≤ y) (hy' : y < (s.mbSize chroma).2) :
    let t := (s.setResolved rd (s.resolve chroma x (s.found m chroma o x y))).retire
    t.reg rd = s.reg ra ∧ (t.reg (regAfter rd)).toNat = x ∧ (t.reg (regAfter (regAfter rd))).toNat = y := by
  rw [found_inside m o hx hx' hy hy']
  obtain ⟨hrd, hrd1, hrd2⟩ := reg_setResolved_of_lookup h rd (hs.lookup_eq (record_eq_some.2 hnames)) y
  refine ⟨hrd.trans (BitVec.ofNat_toNat 32 (s.reg ra)), hrd1.trans ?_, hrd2.trans ?_⟩
  · rw [Int.add_emod_right, Int.emod_eq_of_lt hx hx']
  · rw [Int.add_emod_right, Int.emod_eq_of_lt hy hy']

/-! ## Outside it in the non-MBAFF regime (R222 to R226) -/

/-- Outside the macroblock the candidate by region is the one by position (R223, R224). -/
theorem candidateAt_outside (w a x y : Int) {maxW maxH : Nat} (hout : x < 0 ∨ maxW ≤ x ∨ y < 0 ∨ maxH ≤ y) :
    candidateAt (regionOf x maxW) (regionOf y maxH) ≠ .cur ∧
      candidateAddr w a (candidateAt (regionOf x maxW) (regionOf y maxH)) = candidateOf w a maxW maxH x y := by
  have hthird (v : Int) (max : Nat) : v < 0 ∨ (0 ≤ v ∧ v < max) ∨ max ≤ v := by omega
  rcases hthird y maxH with hy | ⟨hy, hy'⟩ | hy
  case inr.inr =>
    rw [regionOf_over hy, candidateOf, if_pos hy]
    cases regionOf x maxW <;> exact ⟨nofun, rfl⟩
  case inl =>
    have hrow : ¬(maxH : Int) ≤ y := by omega
    rw [regionOf_neg maxH hy, candidateOf, if_neg hrow, if_neg (not_le.2 hy)]
    rcases hthird x maxW with hx | ⟨hx, hx'⟩ | hx
    · rw [regionOf_neg maxW hx, if_pos hx]
      exact ⟨nofun, rfl⟩
    · rw [regionOf_inside hx hx', if_neg (not_lt.2 hx), if_pos hx']
      exact ⟨nofun, rfl⟩
    · rw [regionOf_over hx, if_neg (by omega), if_neg (not_lt.2 hx)]
      exact ⟨nofun, rfl⟩
  case inr.inl =>
    rw [regionOf_inside hy hy', candidateOf, if_neg (not_le.2 hy'), if_pos hy]
    rcases hthird x maxW with hx | ⟨hx, hx'⟩ | hx
    · rw [regionOf_neg maxW hx]
      refine ⟨nofun, ?_⟩
      simp only [hx, true_and, ne_eq, ite_not]
      rfl
    · omega
    · rw [regionOf_over hx, if_neg (by omega)]
      exact ⟨nofun, rfl⟩

theorem nonMbaff_outside (s : State) (a : Nat) {x y : Int} {maxW maxH : Nat}
    (hout : x < 0 ∨ maxW ≤ x ∨ y < 0 ∨ maxH ≤ y) :
    nonMbaff s a (regionOf x maxW) (regionOf y maxH) y =
      (candidateOf s.geo.picWidthInMbs.toNat a maxW maxH x y).bind fun c =>
        (s.ifAvailable a c).map fun n => (n, y) := by
  obtain ⟨hcur, hcand⟩ := candidateAt_outside s.geo.picWidthInMbs.toNat a x y hout
  rw [← hcand, nonMbaff]
  split
  · contradiction
  · rfl

section

variable {s : State} (hframe : s.geo.mbaffFrameFlag = 0) (cur : MbRecord) (chroma : Bool) (o : FrameOverride)
  {x y : Int} (hout : x < 0 ∨ (s.mbSize chroma).1 ≤ x ∨ y < 0 ∨ (s.mbSize chroma).2 ≤ y)
include hframe hout

/-- Outside the macroblock the engine finds the candidate where it is available. -/
theorem found_outside :
    s.found cur chroma o x y =
      (candidateOf s.geo.picWidthInMbs.toNat cur.addr.toNat (s.mbSize chroma).1 (s.mbSize chroma).2 x y).bind fun c =>
        (s.ifAvailable cur.addr.toNat c).map fun n => (n, y) :=
  (if_pos hframe).trans (nonMbaff_outside s cur.addr.toNat hout)

theorem found_outside_of_availableAt {c : Int} {i : Nat}
    (hc : candidateOf s.geo.picWidthInMbs.toNat cur.addr.toNat (s.mbSize chroma).1 (s.mbSize chroma).2 x y = some c)
    (h : AvailableAt s cur.addr.toNat c i) : s.found cur chroma o x y = some (c.toNat, y) := by
  rw [found_outside hframe cur chroma o hout, hc, Option.bind_some, ifAvailable_of_availableAt h, Option.map_some]

/-- With no available candidate the engine finds nothing. -/
theorem found_outside_none (hno : ∀ c i, candidateOf s.geo.picWidthInMbs.toNat cur.addr.toNat (s.mbSize chroma).1
    (s.mbSize chroma).2 x y = some c → ¬AvailableAt s cur.addr.toNat c i) : s.found cur chroma o x y = none := by
  rw [found_outside hframe cur chroma o hout, Option.bind_eq_none_iff]
  exact fun c hc => Option.map_eq_none_iff.2 (ifAvailable_of_not fun i => hno c i hc)

end

/-- Settles O47: inside, the current record is found by its own address; outside, the candidate is found where it is
available. -/
theorem neighNonMbaff : Obligations.NeighNonMbaff := by
  unfold Obligations.NeighNonMbaff
  intro chroma o rd ra rb rc s m hrun hrd hnames hs hframe
  rw [mbSize_fst, mbSize_snd]
  intro maxW maxH x y candidate hchroma hpic hx hx' hy hy'
  have hwindow : InWindow s chroma x y := ⟨hchroma, hpic, hx, hx', hy, hy'⟩
  refine ⟨_, exec_neigh hrun hrd hnames o hwindow, ?inside,
    fun hout => ⟨fun c i hc havail => ?available, fun hno => ?none⟩⟩
  case inside => exact reg_setResolved_inside hs hnames hwindow o rd
  case available =>
    rw [found_outside_of_availableAt hframe m chroma o hout hc havail]
    exact reg_setResolved_of_lookup hwindow rd (havail.lookup_eq hs) y
  case none =>
    rw [found_outside_none hframe m chroma o hout hno]
    exact notAvailable_setResolved s rd

/-- Settles O48: at the left edge there is no candidate A; at the top edge candidate B has a negative address. -/
theorem neighAtEdges : Obligations.NeighAtEdges := by
  unfold Obligations.NeighAtEdges
  intro chroma o rd ra rb rc s m hrun hrd hnames hframe
  rw [mbSize_fst, mbSize_snd]
  intro w maxW maxH hchroma hw hedge
  have hpic : s.geo.picWidthInMbs ≠ 0 := fun h => hw (congrArg BitVec.toNat h)
  have hwindow : InWindow s chroma (s.s rb) (s.s rc) := ⟨hchroma, hpic, by omega⟩
  refine exec_neigh_notAvailable hrun hrd hnames o hwindow
    (found_outside_none hframe m chroma o (by omega) fun c i hc havail => ?_)
  obtain ⟨h0, -⟩ := havail
  rcases hedge with ⟨hcol, -, hx, hy, hy'⟩ | ⟨hrow, hx, hx', -, hy⟩
  · have hmod : (m.addr.toNat : Int) % (w : Int) = 0 := mod_cast hcol
    rw [candidateOf, if_neg (not_le.2 hy'), if_pos hy, if_neg fun h => h.2 hmod] at hc
    contradiction
  · rw [candidateOf, if_neg (by omega), if_neg (not_le.2 hy), if_neg (not_lt.2 hx), if_pos hx'] at hc
    obtain rfl := Option.some.inj hc
    omega

/-! ## The entries of `MBAFF_TABLE` that R233 fixes -/

/-- Below the macroblock, and right of it in its rows, no pair is named (R233). -/
theorem mbaff_none {xR yR : Region} (h : yR = .over ∨ (xR = .over ∧ yR = .inside)) (s : State) (cur : MbRecord)
    (o : FrameOverride) (y : Int) (maxH : Nat) : mbaff s cur o xR yR y maxH = none := by
  rcases h with rfl | ⟨rfl, rfl⟩
  · cases xR <;> rfl
  · rfl

theorem found_mbaff_none {s : State} (hframe : s.geo.mbaffFrameFlag ≠ 0) (cur : MbRecord) (chroma : Bool)
    (o : FrameOverride) {x y : Int} (h : (s.mbSize chroma).2 ≤ y ∨
      ((s.mbSize chroma).1 ≤ x ∧ 0 ≤ y ∧ y < (s.mbSize chroma).2)) : s.found cur chroma o x y = none := by
  refine (if_neg hframe).trans (mbaff_none ?_ ..)
  rcases h with hy | ⟨hx, hy, hy'⟩
  · exact .inl (regionOf_over hy)
  · exact .inr ⟨regionOf_over hx, regionOf_inside hy hy'⟩

/-- Settles O49: R233 fixes no pair below and right of the macroblock, and inside it the macroblock itself. -/
theorem neighMbaff : Obligations.NeighMbaff := by
  unfold Obligations.NeighMbaff
  intro chroma o rd ra rb rc s m hrun hrd hnames hs hframe
  rw [mbSize_fst, mbSize_snd]
  intro maxW maxH x y hchroma hpic hx hx'
  refine ⟨fun hy hy' => ?below, fun hy hy' hright => ?right, fun hy hy' hx0 hin => ?inside⟩
  all_goals have hwindow : InWindow s chroma x y := ⟨hchroma, hpic, hx, hx', by omega⟩
  case below => exact exec_neigh_notAvailable hrun hrd hnames o hwindow (found_mbaff_none hframe m chroma o (.inl hy))
  case right =>
    exact exec_neigh_notAvailable hrun hrd hnames o hwindow
      (found_mbaff_none hframe m chroma o (.inr ⟨hright, hy, hy'⟩))
  case inside =>
    exact ⟨_, exec_neigh hrun hrd hnames o hwindow,
      reg_setResolved_inside hs hnames hwindow o rd hx0 hin hy hy'⟩

end Sys2Proof.Machine
end

section
/-!
`BLK2XY` and `XY2BLK` (R240, R241): where each retires and with what, and that each inverts the other in a picture
whose derived registers fit together.
-/

namespace Sys2Proof.Machine

/-! ## Kinds, indices and positions in the terms of the statements -/

theorem kindLegal_chroma {s : State} :
    s.kindLegal .chroma4x4 = true ↔ s.geo.chromaArrayType ≠ 0 ∧ s.geo.chromaArrayType ≠ 3 := by
  have hword (n : Word) : s.chromaArrayType = n.toNat ↔ s.geo.chromaArrayType = n := BitVec.toNat_inj
  rw [State.kindLegal, Bool.and_eq_true, bne_iff_ne, bne_iff_ne]
  exact and_congr (hword 0).not (hword 3).not

theorem positionLegal_luma {s : State} {k : BlkKind} {x y : Nat} (hk : k ≠ .chroma4x4) :
    s.positionLegal k x y = true ↔ x ≤ 15 ∧ y ≤ 15 := by
  cases k with
  | luma4x4 | luma8x8 => exact decide_eq_true_iff
  | chroma4x4 => contradiction

theorem positionLegal_chroma {s : State} {x y : Nat} :
    s.positionLegal .chroma4x4 x y = true ↔ x < s.geo.mbWidthC.toNat ∧ y < s.geo.mbHeightC.toNat :=
  decide_eq_true_iff

/-- Every corner fits a register: the chroma ones because the height does. -/
theorem blockXY_lt {s : State} {k : BlkKind} {b : Nat} (h : b < s.kindBlocks k) :
    (blockXY k b).1 < 2 ^ 32 ∧ (blockXY k b).2 < 2 ^ 32 := by
  have hheight := s.geo.mbHeightC.isLt
  cases k <;> simp only [State.kindBlocks, blockXY] at h ⊢ <;> omega

/-- Every block index fits a register. -/
theorem blockAt_lt {s : State} {k : BlkKind} {x y : Nat} (h : s.positionLegal k x y = true) :
    blockAt k x y < 2 ^ 32 := by
  have hwidth := s.geo.mbWidthC.isLt
  have hheight := s.geo.mbHeightC.isLt
  cases k with
  | luma4x4 | luma8x8 =>
    obtain ⟨hx, hy⟩ := (positionLegal_luma (by decide)).1 h
    rw [blockAt]
    omega
  | chroma4x4 =>
    obtain ⟨hx, hy⟩ := positionLegal_chroma.1 h
    rw [blockAt]
    omega

/-! ## The commands -/

section

variable {s : State} (hrun : s.halted = false) {k : BlkKind}
include hrun

theorem exec_blk2xy {rd ra : Reg} (hrd : rd.val ≤ 14) (hkind : s.kindLegal k = true) (hb : s.u ra < s.kindBlocks k) :
    ∃ t, exec (.blk2xy k rd ra) s = .next t ∧ (t.reg rd).toNat = (blockXY k (s.u ra)).1 ∧
      (t.reg (regAfter rd)).toNat = (blockXY k (s.u ra)).2 ∧ WritesOnly [rd, regAfter rd] s t := by
  obtain ⟨hx, hy⟩ := blockXY_lt hb
  refine ⟨_, command_completes hrun (ok_after (raiseIf_of_not (Nat.not_lt.2 hrd))
    (ok_after (raiseIf_not_ok _ hkind) (ok_after (raiseIf_of_not (Nat.not_le.2 hb)) rfl))), ?_, ?_,
    writesOnly_setReg2 ..⟩
  · simpa [(regAfter_ne rd).symm] using Nat.mod_eq_of_lt hx
  · simpa using Nat.mod_eq_of_lt hy

theorem exec_blk2xy_raises {rd ra : Reg} (hrd : rd.val ≤ 14) (h : s.kindLegal k = false ∨ s.kindBlocks k ≤ s.u ra) :
    ∃ t, exec (.blk2xy k rd ra) s = .next t ∧ Raises .hostProtocolError s t := by
  refine command_raises hrun nofun (error_after (raiseIf_of_not (Nat.not_lt.2 hrd)) ?_)
  rcases h with hkind | hb
  · exact error_first (raiseIf_not_error _ hkind)
  · exact raisesOnly_raiseIf.error_of_rest fun _ => error_first (raiseIf_of hb)

theorem exec_xy2blk (rd : Reg) {ra rb : Reg} (hkind : s.kindLegal k = true)
    (hpos : s.positionLegal k (s.u ra) (s.u rb) = true) :
    ∃ t, exec (.xy2blk k rd ra rb) s = .next t ∧ (t.reg rd).toNat = blockAt k (s.u ra) (s.u rb) ∧
      WritesOnly [rd] s t := by
  refine ⟨_, command_completes hrun (ok_after (raiseIf_not_ok _ hkind)
    (ok_after (raiseIf_not_ok _ hpos) rfl)), ?_, writesOnly_setNat ..⟩
  simpa using Nat.mod_eq_of_lt (blockAt_lt hpos)

theorem exec_xy2blk_raises (rd : Reg) {ra rb : Reg}
    (h : s.kindLegal k = false ∨ s.positionLegal k (s.u ra) (s.u rb) = false) :
    ∃ t, exec (.xy2blk k rd ra rb) s = .next t ∧ Raises .hostProtocolError s t := by
  refine command_raises hrun nofun ?_
  rcases h with hkind | hpos
  · exact error_first (raiseIf_not_error _ hkind)
  · exact raisesOnly_raiseIf.error_of_rest fun _ => error_first (raiseIf_not_error _ hpos)

end

/-- Settles O50: the tests pass just for the indices and positions in range, and every result fits its register. -/
theorem blockPositions : Obligations.BlockPositions := by
  unfold Obligations.BlockPositions
  intro rd ra rb s hrun b x y chroma corner block
  refine ⟨fun hrd hb => exec_blk2xy hrun hrd rfl (Nat.lt_succ_of_le hb),
    fun hrd hb => exec_blk2xy hrun hrd rfl (Nat.lt_succ_of_le hb),
    fun hrd hchroma hb => exec_blk2xy hrun hrd (kindLegal_chroma.2 hchroma) hb,
    fun hx hy => exec_xy2blk hrun rd rfl ((positionLegal_luma (by decide)).2 ⟨hx, hy⟩),
    fun hx hy => exec_xy2blk hrun rd rfl ((positionLegal_luma (by decide)).2 ⟨hx, hy⟩),
    fun hchroma hx hy => exec_xy2blk hrun rd (kindLegal_chroma.2 hchroma) (positionLegal_chroma.2 ⟨hx, hy⟩),
    fun k hrd h => exec_blk2xy_raises hrun hrd ?index, fun k h => exec_xy2blk_raises hrun rd ?position⟩
  case index =>
    rcases h with ⟨rfl, hb⟩ | ⟨rfl, hb⟩ | ⟨rfl, hchroma | hb⟩
    · exact .inr hb
    · exact .inr hb
    · exact .inl (Bool.eq_false_iff.2 (mt kindLegal_chroma.1 hchroma))
    · exact .inr hb
  case position =>
    rcases h with ⟨hk, hxy⟩ | ⟨rfl, hchroma | hxy⟩
    · exact .inr (Bool.eq_false_iff.2 fun h => by have := (positionLegal_luma hk).1 h; omega)
    · exact .inl (Bool.eq_false_iff.2 (mt kindLegal_chroma.1 hchroma))
    · exact .inr (Bool.eq_false_iff.2 fun h => by have := positionLegal_chroma.1 h; omega)

/-! ## The two inverse laws (R241) -/

/-- The side of a block of a kind. -/
def blockSide (k : BlkKind) : Nat := if k = .luma8x8 then 8 else 4

/-- The chroma macroblock of `CHROMA_ARRAY_TYPE` 1 and 2 is 8 wide and 8 or 16 high (R38). -/
theorem GeometryFits.chroma_size {s : State} (h : GeometryFits s) (hkind : s.kindLegal .chroma4x4 = true) :
    s.geo.mbWidthC.toNat = 8 ∧ (s.geo.mbHeightC.toNat = 8 ∨ s.geo.mbHeightC.toNat = 16) := by
  obtain ⟨hzero, hthree⟩ := kindLegal_chroma.1 hkind
  obtain ⟨-, -, -, -, -, -, -, hwidth, hheight, -⟩ := h
  rw [if_neg hzero, if_neg hthree] at hwidth
  rw [if_neg hzero] at hheight
  refine ⟨hwidth, ?_⟩
  split at hheight
  · exact .inl hheight
  · exact .inr hheight

/-- The corner of a block is a position of the kind, and that block holds it. -/
theorem blockAt_blockXY {s : State} (h : GeometryFits s) {k : BlkKind} (hkind : s.kindLegal k = true) {b : Nat}
    (hb : b < s.kindBlocks k) :
    s.positionLegal k (blockXY k b).1 (blockXY k b).2 = true ∧ blockAt k (blockXY k b).1 (blockXY k b).2 = b := by
  cases k with
  | luma4x4 | luma8x8 =>
    rw [positionLegal_luma (by decide)]
    simp only [State.kindBlocks, blockXY, blockAt] at hb ⊢
    omega
  | chroma4x4 =>
    obtain ⟨hwidth, hheight⟩ := h.chroma_size hkind
    rw [positionLegal_chroma]
    simp only [State.kindBlocks, blockXY, blockAt] at hb ⊢
    omega

/-- The block that holds a position is one of the kind, and its corner is the position rounded down. -/
theorem blockXY_blockAt {s : State} (h : GeometryFits s) {k : BlkKind} (hkind : s.kindLegal k = true) {x y : Nat}
    (hpos : s.positionLegal k x y = true) :
    blockAt k x y < s.kindBlocks k ∧ (blockXY k (blockAt k x y)).1 = x / blockSide k * blockSide k ∧
      (blockXY k (blockAt k x y)).2 = y / blockSide k * blockSide k := by
  cases k with
  | luma4x4 | luma8x8 =>
    obtain ⟨hx, hy⟩ := (positionLegal_luma (by decide)).1 hpos
    simp only [State.kindBlocks, blockXY, blockAt, blockSide, reduceCtorEq, if_true, if_false]
    omega
  | chroma4x4 =>
    obtain ⟨hwidth, hheight⟩ := h.chroma_size hkind
    obtain ⟨hx, hy⟩ := positionLegal_chroma.1 hpos
    simp only [State.kindBlocks, blockXY, blockAt, blockSide, reduceCtorEq, if_false]
    omega

/-- An instruction that answered a running state did not raise. -/
theorem not_raises_of_running {i : Instr} {f : FaultClass} {s t : State} (h : exec i s = .next t)
    (ht : t.halted = false) : ¬∃ t', exec i s = .next t' ∧ Raises f s t' := by
  rintro ⟨t', h', -, hhalt, -⟩
  obtain rfl := Host.Outcome.next.inj (h.symm.trans h')
  exact absurd (ht.symm.trans hhalt) nofun

theorem WritesOnly.geo_eq {d : List Reg} {s t : State} (h : WritesOnly d s t) : t.geo = s.geo := by
  obtain ⟨-, ht⟩ := h
  rw [ht]

/-- Kinds, indices and positions are about the derived registers only. -/
theorem kinds_of_geo_eq {s t : State} (h : t.geo = s.geo) (k : BlkKind) :
    t.kindLegal k = s.kindLegal k ∧ t.kindBlocks k = s.kindBlocks k ∧
      ∀ x y, t.positionLegal k x y = s.positionLegal k x y := by
  cases k with
  | luma4x4 | luma8x8 => exact ⟨rfl, rfl, fun _ _ => rfl⟩
  | chroma4x4 =>
    simp only [State.kindLegal, State.kindBlocks, State.positionLegal, State.chromaArrayType, h, implies_true, and_self]

section

variable {s t : State} (hrun : s.halted = false) {k : BlkKind} (ht : t.halted = false)
include hrun ht

/-- Where `BLK2XY` retires, the kind is legal and the index in range. -/
theorem index_of_blk2xy {rd ra : Reg} (hrd : rd.val ≤ 14) (h : exec (.blk2xy k rd ra) s = .next t) :
    s.kindLegal k = true ∧ s.u ra < s.kindBlocks k := by
  by_contra hno
  rw [Decidable.not_and_iff_not_or_not, Bool.not_eq_true, not_lt] at hno
  exact not_raises_of_running h ht (exec_blk2xy_raises hrun hrd hno)

/-- Where `XY2BLK` retires, the kind is legal and the position inside the macroblock. -/
theorem position_of_xy2blk {rd ra rb : Reg} (h : exec (.xy2blk k rd ra rb) s = .next t) :
    s.kindLegal k = true ∧ s.positionLegal k (s.u ra) (s.u rb) = true := by
  by_contra hno
  rw [Decidable.not_and_iff_not_or_not, Bool.not_eq_true, Bool.not_eq_true] at hno
  exact not_raises_of_running h ht (exec_xy2blk_raises hrun rd hno)

end

/-- Settles O51: the results of the one command are legal operands of the other, and the two formulas invert. -/
theorem blockPositionsInverse : Obligations.BlockPositionsInverse := by
  unfold Obligations.BlockPositionsInverse
  intro k rd q ra rb s t hgeo hrd hrun ht
  refine ⟨fun h => ?back, fun h => ?down⟩
  case back =>
    obtain ⟨hkind, hb⟩ := index_of_blk2xy hrun ht hrd h
    obtain ⟨t, ht', hx, hy, hkept⟩ := exec_blk2xy hrun hrd hkind hb
    obtain rfl := Host.Outcome.next.inj (h.symm.trans ht')
    obtain ⟨hpos, hinv⟩ := blockAt_blockXY hgeo hkind hb
    obtain ⟨hkindEq, -, hposEq⟩ := kinds_of_geo_eq hkept.geo_eq k
    rw [← hx, ← hy] at hpos hinv
    obtain ⟨t', hexec, hq, -⟩ := exec_xy2blk ht q (hkindEq.trans hkind) ((hposEq ..).trans hpos)
    exact ⟨t', hexec, BitVec.eq_of_toNat_eq (hq.trans hinv)⟩
  case down =>
    obtain ⟨hkind, hpos⟩ := position_of_xy2blk hrun ht h
    obtain ⟨t, ht', hq, hkept⟩ := exec_xy2blk hrun q hkind hpos
    obtain rfl := Host.Outcome.next.inj (h.symm.trans ht')
    obtain ⟨hb, hx, hy⟩ := blockXY_blockAt hgeo hkind hpos
    obtain ⟨hkindEq, hblocksEq, -⟩ := kinds_of_geo_eq hkept.geo_eq k
    rw [← hq] at hb hx hy
    obtain ⟨t', hexec, hx', hy', -⟩ := exec_blk2xy ht hrd (hkindEq.trans hkind) (hb.trans_eq hblocksEq.symm)
    exact ⟨t', hexec, hx'.trans hx, hy'.trans hy⟩

end Sys2Proof.Machine
end

section
/-!
`XY2PART` (R242): the partition and the sub-partition of a luma position by the rows of the class tables, for every
table, and what the default tables make of it (R334 to R337).
-/

namespace Sys2Proof.Machine

/-! ## The sub-partition -/

theorem subPartAt_of_subTypeIs {m : MbRecord} {q : Params} {x y : Nat} {st : SubT}
    (h : SubTypeIs m (m.partAt q x y) st.val) :
    m.subPartAt q x y = .ok (8 / (q.subMbClass st).size.width * (y % 8 / (q.subMbClass st).size.height) +
      x % 8 / (q.subMbClass st).size.width) := by
  obtain ⟨-, htypes, -⟩ := subTypeIs_iff.1 h
  rw [MbRecord.subPartAt, if_pos htypes]
  exact ok_after (subClass_of_subTypeIs q h) rfl

theorem subPartAt_error {m : MbRecord} {q : Params} {x y : Nat} (htypes : m.type.hasSubTypes = true)
    (hno : ¬∃ st, SubTypeIs m (m.partAt q x y) st) : m.subPartAt q x y = .error .contextDerivationError := by
  have hdirect : ¬(m.type.val = 33 ∨ m.type.val = 56) := by have := hasSubTypes_iff.1 htypes; omega
  rw [MbRecord.subPartAt, if_pos htypes]
  exact error_first (subClass_error q hdirect hno)

theorem subPartAt_of_direct {m : MbRecord} (q : Params) (x y : Nat) (h : m.type.val = 33 ∨ m.type.val = 56) :
    m.subPartAt q x y = .ok (2 * (y % 8 / 4) + x % 8 / 4) := by
  have htypes : ¬m.type.hasSubTypes = true := fun h' => by have := hasSubTypes_iff.1 h'; omega
  rw [MbRecord.subPartAt, if_neg htypes, if_pos (isDirect_iff.2 h)]

theorem subPartAt_of_whole {m : MbRecord} (q : Params) (x y : Nat) (htypes : ¬m.type.hasSubTypes = true)
    (hdirect : ¬m.type.isDirect = true) : m.subPartAt q x y = .ok 0 := by
  rw [MbRecord.subPartAt, if_neg htypes, if_neg hdirect]

/-! ## The command -/

/-- A place in the grid of partitions of one size fits a register, whatever the table says the size is. -/
theorem gridIndex_lt (z : BlockSize) {side x y : Nat} (hside : side ≤ 16) (hx : x ≤ 15) (hy : y ≤ 15) :
    side / z.width * (y / z.height) + x / z.width < 2 ^ 32 :=
  calc side / z.width * (y / z.height) + x / z.width
    _ ≤ side * y + x :=
      Nat.add_le_add (Nat.mul_le_mul (Nat.div_le_self ..) (Nat.div_le_self ..)) (Nat.div_le_self ..)
    _ ≤ 16 * 15 + 15 := Nat.add_le_add (Nat.mul_le_mul hside hy) hx
    _ < 2 ^ 32 := by decide

theorem partAt_lt (m : MbRecord) (q : Params) {x y : Nat} (hx : x ≤ 15) (hy : y ≤ 15) : m.partAt q x y < 2 ^ 32 := by
  rw [MbRecord.partAt]
  split
  · decide
  · exact gridIndex_lt _ le_rfl hx hy

/-- The partition by the default table (R334 to R336). -/
theorem partAt_default {m : MbRecord} {q : Params} (hq : q.mbClassTable = Params.default.mbClassTable) (x y : Nat) :
    m.partAt q x y = if m.type.val ≤ 26 then 0 else
      16 / partWidthOf m.type.val * (y / partHeightOf m.type.val) + x / partWidthOf m.type.val := by
  have hrow : q.mbClass m.type = mbClasses[m.type] := congrArg (·[m.type]) hq
  obtain ⟨hintra, -, hwidth, hheight⟩ := mbClasses_row m.type
  simp only [MbRecord.partAt, Params.isIntra, hrow, hintra, hwidth, hheight, decide_eq_true_eq]

section

variable {s : State} (hrun : s.halted = false) {rd ra rb rc : Reg} (hrd : rd.val ≤ 14) {m : MbRecord}
  (hnames : NamesRecord s (s.u ra) m) (hx : s.u rb ≤ 15) (hy : s.u rc ≤ 15)
include hrun hrd hnames hx hy

theorem exec_xy2part {sub : Nat} (hsub : m.subPartAt s.params (s.u rb) (s.u rc) = .ok sub) (hlt : sub < 2 ^ 32) :
    ∃ t, exec (.xy2part rd ra rb rc) s = .next t ∧ (t.reg rd).toNat = m.partAt s.params (s.u rb) (s.u rc) ∧
      (t.reg (regAfter rd)).toNat = sub ∧ WritesOnly [rd, regAfter rd] s t := by
  refine ⟨_, command_completes hrun (ok_after (raiseIf_of_not (Nat.not_lt.2 hrd)) (ok_after (recordOperand_ok.2 hnames)
    (ok_after (raiseIf_of_not (by omega)) (ok_after hsub rfl)))), ?_, ?_, writesOnly_setReg2 ..⟩
  · simpa [(regAfter_ne rd).symm] using Nat.mod_eq_of_lt (partAt_lt m s.params hx hy)
  · simpa using Nat.mod_eq_of_lt hlt

theorem exec_xy2part_raises (hsub : m.subPartAt s.params (s.u rb) (s.u rc) = .error .contextDerivationError) :
    ∃ t, exec (.xy2part rd ra rb rc) s = .next t ∧ Raises .contextDerivationError s t :=
  command_raises hrun nofun (error_after (raiseIf_of_not (Nat.not_lt.2 hrd)) (error_after (recordOperand_ok.2 hnames)
    (error_after (raiseIf_of_not (by omega)) (error_first hsub))))

end

/-- Settles O52: the sub-partition is that of the case the type is in, and both results fit their registers. -/
theorem xy2partResult : Obligations.Xy2partResult := by
  unfold Obligations.Xy2partResult
  intro rd ra rb rc s m hrun hrd hnames hx hy T x y row part gives
  have hgives {sub : Nat} := exec_xy2part hrun hrd hnames hx hy (sub := sub)
  refine ⟨fun htable => partAt_default htable x y, fun h30 h31 h55 h33 h56 => ?whole, fun hdirect => ?direct,
    fun st hst => ⟨?subType, fun htable => ?default⟩, fun htypes hno => ?missing⟩
  case whole =>
    have htypes : ¬m.type.hasSubTypes = true := mt hasSubTypes_iff.1 (by omega)
    exact hgives (subPartAt_of_whole s.params x y htypes (mt isDirect_iff.1 (by omega))) (by decide)
  case direct => exact hgives (subPartAt_of_direct s.params x y hdirect) (by omega)
  case subType =>
    exact hgives (subPartAt_of_subTypeIs hst) (gridIndex_lt _ (by decide) (by omega) (by omega))
  case default =>
    have hrow : s.params.subMbClassTable[st] = subMbClasses[st] := congrArg (·[st]) htable
    obtain ⟨-, -, hwidth, hheight⟩ := subMbClasses_row st
    exact hrow ▸ ⟨hwidth, hheight⟩
  case missing =>
    exact exec_xy2part_raises hrun hrd hnames hx hy (subPartAt_error (hasSubTypes_iff.2 htypes) hno)

end Sys2Proof.Machine
end

section
/-!
The single symbols of the residual encoder: `COEFFTOKEN` (R270 to R272), `TOTALZEROS` (R276) and `RUNBEFORE` (R278), for
every table; and which entries the default tables have (R301 to R317), read off the lengths of their rows.
-/

namespace Sys2Proof.Machine

/-! ## The family of a context (R271) -/

theorem tokenClass_eq_none {nC : Int} (h : nC < -2) : tokenClass nC = none := if_pos h

theorem tokenClass_of_family {nC : Int} {cls : TokenClass} (h : FamilyIs nC cls) : tokenClass nC = some cls := by
  unfold FamilyIs at h
  unfold tokenClass
  split_ifs <;> grind

theorem exists_family {nC : Int} (h : -2 ≤ nC) : ∃ cls, FamilyIs nC cls := by
  have hsome : ∃ cls, tokenClass nC = some cls := by
    rw [tokenClass, if_neg (not_lt.2 h)]
    split_ifs <;> exact ⟨_, rfl⟩
  exact hsome.imp fun _ => tokenClass_family

/-- The most coefficients a family has an entry for by default (R301 to R306). -/
def TokenClass.maxCoeff : TokenClass → Nat
  | .cdc422 => 8
  | .cdc420 => 4
  | .n0 | .n2 | .n4 | .n8 => 16

theorem TokenClass.maxCoeff_le (cls : TokenClass) : cls.maxCoeff ≤ 16 := by cases cls <;> decide

theorem maxCoeff_of_family {nC : Int} {cls : TokenClass} (h : FamilyIs nC cls) :
    cls.maxCoeff = if nC = -2 then 8 else if nC = -1 then 4 else 16 := by
  rcases h with ⟨rfl, rfl⟩ | ⟨rfl, rfl⟩ | ⟨hlo, -, rfl⟩ | ⟨hlo, -, rfl⟩ | ⟨hlo, -, rfl⟩ | ⟨hlo, rfl⟩
  case inl | inr.inl => rfl
  all_goals rw [if_neg (by omega), if_neg (by omega), TokenClass.maxCoeff]

/-! ## Entries of tables (R300) -/

theorem Params.coeffToken_of_le (p : Params) (cls : TokenClass) {tc t1 : Nat} (htc : tc ≤ 16) (ht1 : t1 ≤ 3) :
    p.coeffToken cls tc t1 = (p.coeffTokenTable.family cls).entry tc t1 := if_neg (by omega)

theorem Params.coeffToken_eq_none {p : Params} {cls : TokenClass} {tc t1 : Nat}
    (h : 16 < tc ∨ 3 < t1 ∨ (p.coeffTokenTable.family cls).entry tc t1 = none) : p.coeffToken cls tc t1 = none := by
  rw [Params.coeffToken]
  split
  · rfl
  · tauto

theorem Params.totalZeros_of_pos (p : Params) (c : CoeffClass) {tc : Nat} (htc : 1 ≤ tc) (tz : Nat) :
    p.totalZeros c tc tz = (p.totalZerosTable.columns c).entry (tc - 1) tz := if_neg (by omega)

theorem Params.totalZeros_eq_none {p : Params} {c : CoeffClass} {tc tz : Nat}
    (h : tc = 0 ∨ (p.totalZerosTable.columns c).entry (tc - 1) tz = none) : p.totalZeros c tc tz = none := by
  rw [Params.totalZeros]
  split
  · rfl
  · tauto

theorem Params.runBefore_of_le (p : Params) {zl run : Nat} (hzl : 0 < zl) (hle : run ≤ zl) (hmax : run ≤ 14) :
    p.runBefore zl run = p.runBeforeTable.entry (min zl 7 - 1) run := if_neg (by omega)

theorem Params.runBefore_eq_none {p : Params} {zl run : Nat}
    (h : zl = 0 ∨ zl < run ∨ 14 < run ∨ p.runBeforeTable.entry (min zl 7 - 1) run = none) :
    p.runBefore zl run = none := by
  rw [Params.runBefore]
  split
  · rfl
  · tauto

/-- A default table whose rows `i < n` have `len i` entries has the entries `j < len i` of those rows and no other: nothing
it lists is absent. -/
theorem exists_entry_present {t : List (List Bits)} {n : Nat} {len : Nat → Nat}
    (hlen : t.map List.length = (List.range n).map len) (i j : Nat) :
    (∃ word, (present t).entry i j = some word) ↔ i < n ∧ j < len i := by
  have hrow : t[i]?.map List.length = (List.range n)[i]?.map len := by rw [← List.getElem?_map, hlen, List.getElem?_map]
  have hentry : (present t).entry i j = t[i]?.bind fun row => row[j]? := by
    rw [CodeTable.entry, present, List.getElem?_map]
    cases t[i]? with
    | none => rfl
    | some row => simp only [Option.map_some, Option.bind_some, List.getElem?_map]; cases row[j]? <;> rfl
  rw [hentry]
  by_cases hi : i < n
  · rw [List.getElem?_range hi, Option.map_some, Option.map_eq_some_iff] at hrow
    obtain ⟨row, hrow, hl⟩ := hrow
    simp [hrow, hi, ← hl, ← Option.isSome_iff_exists]
  · rw [List.getElem?_eq_none (l := List.range n) (by simpa using hi), Option.map_none, Option.map_eq_none_iff] at hrow
    simp [hrow, hi]

/-! ## The default tables (R301 to R306, R310 to R312, R315) -/

/-- Row `tc` of a default `coeff_token` family has the entries with `trailing_ones` at most 3 and `tc` (R301 to R306). -/
theorem exists_coeffTokens_entry (cls : TokenClass) (tc t1 : Nat) :
    (∃ word, (coeffTokens.family cls).entry tc t1 = some word) ↔ t1 ≤ 3 ∧ t1 ≤ tc ∧ tc ≤ cls.maxCoeff := by
  have hrows : ∃ t, coeffTokens.family cls = present t ∧
      t.map List.length = (List.range (cls.maxCoeff + 1)).map fun i => min i 3 + 1 := by
    cases cls <;> exact ⟨_, rfl, rfl⟩
  obtain ⟨t, ht, hlen⟩ := hrows
  rw [ht, exists_entry_present hlen]
  omega

/-- From context 8 on a code word is its pair of counts in six bits, but that of no coefficients (R304). -/
theorem coeffTokenN8_eq : coeffTokenN8 = [bin 3 6] ::
    (List.range 16).map fun i => (List.range (min (i + 1) 3 + 1)).map fun t1 => bin (i * 4 + t1) 6 := rfl

theorem coeffTokens_entry_n8 {tc t1 : Nat} (hpos : 0 < tc) (htc : tc ≤ 16) (hle : t1 ≤ tc) (ht1 : t1 ≤ 3) :
    coeffTokens.n8.entry tc t1 = some (bin ((tc - 1) * 4 + t1) 6) := by
  obtain ⟨i, rfl⟩ : ∃ i, tc = i + 1 := ⟨tc - 1, by omega⟩
  have hi : i < 16 := by omega
  have hj : t1 < min (i + 1) 3 + 1 := by omega
  simp [coeffTokens, CodeTable.entry, present, coeffTokenN8_eq, hi, hj]

/-- The maximum coefficient count of a class of `total_zeros` (R276). -/
def classMax : CoeffClass → Nat
  | .max4 => 4
  | .max8 => 8
  | .max16 => 16

/-- Column `tc` of a default `total_zeros` table has the zeros that fit beside `tc` coefficients (R310 to R312). -/
theorem exists_totalZeros_entry (c : CoeffClass) {tc : Nat} (htc : 1 ≤ tc) (tz : Nat) :
    (∃ word, (totalZeros.columns c).entry (tc - 1) tz = some word) ↔ tc < classMax c ∧ tz ≤ classMax c - tc := by
  have hrows : ∃ t, totalZeros.columns c = present t ∧
      t.map List.length = (List.range (classMax c - 1)).map fun i => classMax c - i := by
    cases c <;> exact ⟨_, rfl, rfl⟩
  obtain ⟨t, ht, hlen⟩ := hrows
  rw [ht, exists_entry_present hlen]
  omega

/-- A default `run_before` column has every run up to the zeros left, in the last column up to 14 (R315). -/
theorem exists_runBefores_entry {zl run : Nat} (hpos : 0 < zl) (hle : run ≤ zl) (hmax : run ≤ 14) :
    ∃ word, (present runBefores).entry (min zl 7 - 1) run = some word := by
  have hlen : runBefores.map List.length = (List.range 7).map fun i => if i < 6 then i + 2 else 15 := rfl
  rw [exists_entry_present hlen]
  split <;> omega

/-- With more than 6 zeros left, a run up to 6 has three bits and a longer one is unary (R315). -/
theorem runBefores_entry_last {run : Nat} (h : run ≤ 14) :
    (present runBefores).entry 6 run =
      some (if run ≤ 6 then bin (7 - run) 3 else List.replicate (run - 4) false ++ [true]) := by
  revert run
  decide

/-! ## The commands (R270, R276, R278) -/

section

variable {s : State} (hrun : s.halted = false)
include hrun

theorem coefftoken_emits {ra rb rc : Reg} {cls : TokenClass} {word : Bits} (hcls : FamilyIs (s.s ra) cls)
    (htc : s.u rb ≤ 16) (ht1 : s.u rc ≤ 3)
    (hentry : (s.params.coeffTokenTable.family cls).entry (s.u rb) (s.u rc) = some word) :
    ∃ t, exec (.coefftoken ra rb rc) s = .next t ∧ Appends word [] s t := by
  rw [← Params.coeffToken_of_le _ _ htc ht1] at hentry
  exact command_appends hrun (ok_after (orRaise_ok.2 (tokenClass_of_family hcls)) (ok_after (orRaise_ok.2 hentry) rfl))

theorem coefftoken_raises {ra rb rc : Reg} {cls : TokenClass} (hcls : FamilyIs (s.s ra) cls)
    (hnone : s.params.coeffToken cls (s.u rb) (s.u rc) = none) :
    ∃ t, exec (.coefftoken ra rb rc) s = .next t ∧ Raises .contextDerivationError s t :=
  command_raises hrun nofun (error_after (orRaise_ok.2 (tokenClass_of_family hcls))
    (error_first (orRaise_error.2 ⟨hnone, rfl⟩)))

theorem totalzeros_emits {c : CoeffClass} {ra rb : Reg} {word : Bits}
    (h : s.params.totalZeros c (s.u rb) (s.u ra) = some word) :
    ∃ t, exec (.totalzeros c ra rb) s = .next t ∧ Appends word [] s t :=
  command_appends hrun (ok_after (orRaise_ok.2 h) rfl)

theorem totalzeros_raises {c : CoeffClass} {ra rb : Reg} (h : s.params.totalZeros c (s.u rb) (s.u ra) = none) :
    ∃ t, exec (.totalzeros c ra rb) s = .next t ∧ Raises .contextDerivationError s t :=
  command_raises hrun nofun (error_first (orRaise_error.2 ⟨h, rfl⟩))

theorem runbefore_emits {ra rb : Reg} {word : Bits} (h : s.params.runBefore (s.u rb) (s.u ra) = some word) :
    ∃ t, exec (.runbefore ra rb) s = .next t ∧ Appends word [] s t :=
  command_appends hrun (ok_after (orRaise_ok.2 h) rfl)

theorem runbefore_raises {ra rb : Reg} (h : s.params.runBefore (s.u rb) (s.u ra) = none) :
    ∃ t, exec (.runbefore ra rb) s = .next t ∧ Raises .contextDerivationError s t :=
  command_raises hrun nofun (error_first (orRaise_error.2 ⟨h, rfl⟩))

end

/-! ## The statements -/

/-- Settles O54: the two lookups are that of the family and that of the pair; which pairs the default tables have is in
the lengths of their rows. -/
theorem coefftokenAppends : Obligations.CoefftokenAppends := by
  unfold Obligations.CoefftokenAppends
  intro ra rb rc s hrun nC tc t1 present
  refine ⟨fun hlow => command_raises hrun nofun (error_first (orRaise_error.2 ⟨tokenClass_eq_none hlow, rfl⟩)),
    exists_family, fun cls hcls => ⟨fun word htc ht1 => coefftoken_emits hrun hcls htc ht1,
      fun habsent => coefftoken_raises hrun hcls (Params.coeffToken_eq_none habsent),
      fun htable => ⟨?exact, fun hlow hpos hin => ?closed⟩⟩⟩
  case exact =>
    have hin : present ↔ t1 ≤ 3 ∧ t1 ≤ tc ∧ tc ≤ cls.maxCoeff := by rw [maxCoeff_of_family hcls]
    have hle := cls.maxCoeff_le
    have hentry := exists_coeffTokens_entry cls tc t1
    rw [htable]
    change present ↔ tc ≤ 16 ∧ t1 ≤ 3 ∧ ∃ word, (coeffTokens.family cls).entry tc t1 = some word
    rw [hin, hentry]
    omega
  case closed =>
    obtain rfl : cls = .n8 := by unfold FamilyIs at hcls; grind
    obtain ⟨ht1, hle, htc⟩ := hin
    rw [← maxCoeff_of_family hcls] at htc
    exact htable ▸ coeffTokens_entry_n8 hpos htc hle ht1

/-- Settles O55: the context names the family, and the table keeps its word. -/
theorem tokenBoundaries : Obligations.TokenBoundaries := by
  unfold Obligations.TokenBoundaries
  intro keeps
  refine ⟨⟨rfl, rfl, rfl, rfl⟩, ?_⟩
  intro ra rb rc s hrun ⟨h0, h2, h4, h8⟩ htc ht1 emits
  have hemits {cls : TokenClass} {word : Bits} (hcls : FamilyIs (s.s ra) cls)
      (hword : (s.params.coeffTokenTable.family cls).entry 0 0 = some word) : emits word :=
    coefftoken_emits hrun hcls (by omega) (by omega) (by rw [htc, ht1, hword])
  exact ⟨fun hlo hhi => hemits (.inr (.inr (.inl ⟨hlo, hhi, rfl⟩))) h0,
    fun hlo hhi => hemits (.inr (.inr (.inr (.inl ⟨hlo, hhi, rfl⟩)))) h2,
    fun hlo hhi => hemits (.inr (.inr (.inr (.inr (.inl ⟨hlo, hhi, rfl⟩))))) h4,
    fun hlo => hemits (.inr (.inr (.inr (.inr (.inr ⟨hlo, rfl⟩))))) h8⟩

/-- Settles O56: each command is one lookup; which entries the default tables have is in the lengths of their columns. -/
theorem totalzerosRunbeforeAppend : Obligations.TotalzerosRunbeforeAppend := by
  unfold Obligations.TotalzerosRunbeforeAppend
  intro c ra rb s hrun max tz tc run zl zerosEntry runEntry
  refine ⟨fun word htc hentry => totalzeros_emits hrun ((Params.totalZeros_of_pos _ c htc tz).trans hentry),
    fun habsent => totalzeros_raises hrun (Params.totalZeros_eq_none habsent), fun htable htc => ?zerosDefault,
    fun word hpos hle hmax hentry => runbefore_emits hrun ((Params.runBefore_of_le _ hpos hle hmax).trans hentry),
    fun habsent => runbefore_raises hrun (Params.runBefore_eq_none habsent), fun htable hpos hle hmax => ?runDefault⟩
  case zerosDefault =>
    have hmax : max = classMax c := by cases c <;> rfl
    have htable : zerosEntry = (totalZeros.columns c).entry (tc - 1) tz :=
      congrArg (fun t => (t.columns c).entry (tc - 1) tz) htable
    rw [hmax, htable]
    exact exists_totalZeros_entry c htc tz
  case runDefault =>
    have htable : runEntry = (present runBefores).entry (min zl 7 - 1) run :=
      congrArg (CodeTable.entry · (min zl 7 - 1) run) htable
    obtain ⟨word, hword⟩ := exists_runBefores_entry hpos hle hmax
    refine ⟨word, htable.trans hword, fun hzl hrun => ?_, fun hzl hrun => ?_⟩
    all_goals
      rw [min_eq_right (by omega), runBefores_entry_last hmax, Option.some.injEq] at hword
      rw [← hword]
    · rw [if_pos hrun]
    · rw [if_neg (by omega)]

end Sys2Proof.Machine
end

section
/-!
`NC` writes the context of R262, and `RESBLK` appends the code of R280 and stores the context. That a block which passes
the checks of R281 is coded as R280 to R284 say is the converse of `TransformBlock.code_ok`.
-/

namespace Sys2Proof.Machine

/-! ## The range of a context, with no invariant (R262 to R264) -/

section

variable {s : State} {c : Category} {cur : MbRecord}

/-- A neighbour block counts 0, 16 or a `total_coeff`, which has five bits. -/
theorem CountIs.lt {mbN : MbRecord} {bN k : Nat} (h : CountIs s c cur mbN bN k) : k < 32 := by
  obtain ⟨hzero, hpcm, hnone, hcounts⟩ := h
  by_cases hfree : IntraBlocked s cur mbN ∨ mbN.type.val = 32 ∨ mbN.type.val = 56
  · rw [hzero hfree]; decide
  obtain ⟨hblocked, hp, hs⟩ : ¬IntraBlocked s cur mbN ∧ mbN.type.val ≠ 32 ∧ mbN.type.val ≠ 56 := by tauto
  by_cases ht : mbN.type.val = 25
  · rw [hpcm hblocked ht]; decide
  by_cases hres : HasResidual c mbN bN
  · obtain ⟨tb, -, rfl⟩ := hcounts ⟨hblocked, hp, hs, ht, hres⟩
    exact tb.totalCoeff.isLt
  · rw [hnone ht hres]; decide

theorem Contributes.lt {x y : Int} {k : Nat} (h : Contributes s c cur x y (some k)) : k < 32 := by
  obtain ⟨-, mbN, bN, -, hcount⟩ := h
  exact hcount.lt

/-- Of two numbers below 32 the one, the other, their rounded mean and 0 are below 32 (R262). -/
theorem Combined.range {nA nB : Option Nat} {nC : Int} (h : Combined nA nB nC) (hA : ∀ k, nA = some k → k < 32)
    (hB : ∀ k, nB = some k → k < 32) : 0 ≤ nC ∧ nC < 32 := by
  match nA, nB, h with
  | none, none, h =>
    have hnC : nC = 0 := h
    omega
  | some a, none, h =>
    have hnC : nC = a := h
    have ha := hA a rfl
    omega
  | none, some b, h =>
    have hnC : nC = b := h
    have hb := hB b rfl
    omega
  | some a, some b, h =>
    have hnC : nC = ((a + b + 1) / 2 : Nat) := h
    have ha := hA a rfl
    have hb := hB b rfl
    omega

variable {b : Nat} {nC : Int} (h : ContextIs s c cur b nC)
include h

theorem ContextIs.range_of_counts (hc : c.code ≠ 9) : 0 ≤ nC ∧ nC < 32 := by
  obtain ⟨-, hrest⟩ := h
  obtain ⟨nA, nB, hA, hB, hcomb⟩ := hrest hc
  exact hcomb.range (fun k e => Contributes.lt (e ▸ hA)) (fun k e => Contributes.lt (e ▸ hB))

theorem ContextIs.range : -2 ≤ nC ∧ nC < 32 := by
  by_cases hc : c.code = 9
  · obtain ⟨hdc, -⟩ := h
    rw [hdc hc]
    split <;> decide
  · have hrange := h.range_of_counts hc
    omega

/-- The family of a context has an entry for every count of coefficients of the category (R260, R271). -/
theorem ContextIs.maxCoeffOf_le : maxCoeffOf s c ≤ if nC = -2 then 8 else if nC = -1 then 4 else 16 := by
  unfold maxCoeffOf
  by_cases hc : c.code = 9
  · obtain ⟨hdc, -⟩ := h
    rw [if_pos hc, hdc hc]
    split <;> decide
  · obtain ⟨hpos, -⟩ := h.range_of_counts hc
    rw [if_neg hc, if_neg (show nC ≠ -2 by omega), if_neg (show nC ≠ -1 by omega)]
    split <;> decide

end

/-- Settles O53: the operands and the context are those of R261 and R262, and a context fits a register. -/
theorem ncResult : Obligations.NcResult := by
  unfold Obligations.NcResult
  intro c rd ra s m nC hrun hmay hctx
  have hok := context_of_contextIs hctx
  have hrange := hctx.range
  refine ⟨_, command_completes hrun (ok_after (residualOperand_ok.2 ⟨hmay, rfl⟩) (ok_after hok rfl)), ?_,
    writesOnly_setReg s rd _, fun hs => context_range hs hok⟩
  rw [State.reg_retire, State.reg_setReg_same, BitVec.toInt_ofInt_eq_self (by decide) (by omega) (by omega)]

/-! ## The code of a block by R280 is the one the model makes (R280 to R284) -/

theorem runBits_of_coded {p : Params} {runs : List Nat} {zl : Nat} {bits : Bits} (h : RunsCoded p runs zl bits) :
    runBits p runs zl = .ok bits := by
  induction runs generalizing zl bits with
  | nil => rw [runBits, show bits = [] from h]
  | cons r rest ih =>
    obtain ⟨hdone, hmore⟩ := h
    rw [runBits]
    split
    · rw [hdone ‹_›]
    · obtain ⟨word, more, hword, hcoded, rfl⟩ := hmore (by omega)
      exact ok_after (orRaise_ok.2 hword) (ok_after (ih hcoded) rfl)

theorem TransformBlock.trailingOnes_le (b : TransformBlock) : b.trailingOnes.toNat ≤ 3 :=
  Nat.le_of_lt_succ b.trailingOnes.isLt

/-- A block that passes the checks of R281 and has a code by R280 has that code. -/
theorem TransformBlock.code_of_codedAs {b : TransformBlock} {p : Params} {nC : Int} {max : Nat} {bits : Bits}
    (hgood : b.Consistent max) (h : b.CodedAs p nC max bits) : b.code p nC max = .ok bits := by
  obtain ⟨hmax, ht1, hfits⟩ := hgood
  obtain ⟨cls, token, tail, hfam, htoken, rfl, hnone, hsome⟩ := h
  have ht3 := b.trailingOnes_le
  refine ok_after (raiseIf_of_not (by omega)) (ok_after (raiseIf_of_not (by omega))
    (ok_after (orRaise_ok.2 (tokenClass_of_family hfam)) (ok_after (orRaise_ok.2 htoken) ?_)))
  split
  case isTrue h0 => simp [h0, hnone (.inl h0)]
  case isFalse h0 =>
    refine ok_after (a := tail) ?_ rfl
    rcases hmax.eq_or_lt with hfull | hlt
    · rw [zeroBits_full hfull.not_lt, hnone (.inr hfull)]
    · obtain ⟨hzeros, -⟩ := hfits (by omega) hlt
      obtain ⟨zeros, runs, hword, hruns, rfl⟩ := hsome (by omega) hlt
      rw [zeroBits, if_pos hlt]
      exact ok_after (raiseIf_of_not (by omega)) (ok_after (orRaise_ok.2 hword)
        (ok_after (runBits_of_coded hruns) rfl))

/-! ## Every block that passes the checks has a code by the default tables -/

theorem exists_runsCoded {p : Params} (hp : p.runBeforeTable = Params.default.runBeforeTable) {runs : List Nat} {zl : Nat}
    (hfit : RunsFit runs zl) (hle : ∀ r ∈ runs, r ≤ 14) : ∃ bits, RunsCoded p runs zl bits := by
  induction runs generalizing zl with
  | nil => exact ⟨[], rfl⟩
  | cons r rest ih =>
    obtain ⟨hr, hrest⟩ := List.forall_mem_cons.1 hle
    rcases Nat.eq_zero_or_pos zl with rfl | hpos
    · exact ⟨[], fun _ => rfl, fun h => absurd h (lt_irrefl 0)⟩
    · obtain ⟨hrzl, hfit⟩ := hfit.resolve_left hpos.ne'
      obtain ⟨word, hword⟩ := exists_runBefores_entry hpos hrzl hr
      obtain ⟨more, hmore⟩ := ih hfit hrest
      have hlook : p.runBefore zl r = some word := by
        rw [Params.runBefore_of_le p hpos hrzl hr, hp]
        exact hword
      exact ⟨word ++ more, fun h => absurd h hpos.ne', fun _ => ⟨word, more, hlook, hmore, rfl⟩⟩

theorem TransformBlock.InRange.runs_le {b : TransformBlock} (h : b.InRange) : ∀ r ∈ b.runs, r ≤ 14 := by
  obtain ⟨-, -, hrun, -⟩ := h
  intro r hr
  obtain ⟨n, hn, rfl⟩ := List.mem_map.1 hr
  obtain ⟨i, hi⟩ := List.mem_iff_getElem?.1 (List.mem_of_mem_take hn)
  exact hrun i n (by simpa using hi)

theorem le_classMax {max : Nat} (h : max ≤ 16) : max ≤ classMax (coeffClassFor max) := by
  unfold coeffClassFor
  split_ifs with h4 h8
  exacts [h4.le, h8.le, h]

theorem TransformBlock.exists_codedAs {b : TransformBlock} {p : Params}
    (htoken : p.coeffTokenTable = Params.default.coeffTokenTable)
    (hzeros : p.totalZerosTable = Params.default.totalZerosTable)
    (hruns : p.runBeforeTable = Params.default.runBeforeTable) {nC : Int} (hlow : -2 ≤ nC) {max : Nat}
    (hmax : max ≤ if nC = -2 then 8 else if nC = -1 then 4 else 16) (hgood : b.Consistent max) (hb : b.InRange) :
    ∃ bits, b.CodedAs p nC max bits := by
  obtain ⟨hle, ht1, hfits⟩ := hgood
  have ht3 := b.trailingOnes_le
  obtain ⟨cls, hfam⟩ := exists_family hlow
  rw [← maxCoeff_of_family hfam] at hmax
  have h16 := cls.maxCoeff_le
  obtain ⟨token, hword⟩ := (exists_coeffTokens_entry cls _ _).2 ⟨ht3, ht1, hle.trans hmax⟩
  have htok : p.coeffToken cls b.totalCoeff.toNat b.trailingOnes.toNat = some token := by
    rw [Params.coeffToken_of_le _ _ (hle.trans (hmax.trans h16)) ht3, htoken]
    exact hword
  by_cases hpart : 0 < b.totalCoeff.toNat ∧ b.totalCoeff.toNat < max
  · obtain ⟨hpos, hlt⟩ := hpart
    obtain ⟨htz, hfit⟩ := hfits hpos hlt
    have hclass := le_classMax (hmax.trans h16)
    obtain ⟨zeros, hz⟩ := (exists_totalZeros_entry (coeffClassFor max) hpos b.totalZeros.toNat).2 (by omega)
    obtain ⟨runs, hr⟩ := exists_runsCoded hruns hfit hb.runs_le
    have hlook : p.totalZeros (coeffClassFor max) b.totalCoeff.toNat b.totalZeros.toNat = some zeros := by
      rw [Params.totalZeros_of_pos _ _ hpos, hzeros]
      exact hz
    exact ⟨_, cls, token, zeros ++ runs, hfam, htok, rfl, fun h => by omega, fun _ _ => ⟨zeros, runs, hlook, hr, rfl⟩⟩
  · exact ⟨_, cls, token, [], hfam, htok, rfl, fun _ => rfl, fun hpos hlt => absurd ⟨hpos, hlt⟩ hpart⟩

/-! ## `RESBLK` (R280) -/

/-- The record with the context stored in its block (R280). -/
def MbRecord.storeContext (m : MbRecord) (key : Nat) (b : TransformBlock) (nC : Int) : MbRecord :=
  m.setBlock key { b with nC := some (BitVec.ofInt 32 nC) }

theorem MbRecord.block_storeContext {m : MbRecord} {key : Nat} {b : TransformBlock} {nC : Int} {k : Nat} :
    (m.storeContext key b nC).block k =
      if k = key then some { b with nC := some (BitVec.ofInt 32 nC) } else m.block k := MbRecord.block_setBlock

/-- `RESBLK` completes where the operands, the block, its context and its code are there. -/
theorem exec_resblk {s : State} (hrun : s.halted = false) {c : Category} {ra : Reg} {m : MbRecord}
    (hmay : MayEncode s c (s.u ra) m) {b : TransformBlock} (hb : m.block (blockKey c (s.u ra)) = some b) {nC : Int}
    (hctx : s.context c m (s.u ra) = .ok nC) {bits : Bits} (hcode : b.code s.params nC (maxCoeffOf s c) = .ok bits) :
    exec (.resblk c ra) s =
      .next { s.emit bits with cur := some (m.storeContext (blockKey c (s.u ra)) b nC) : State }.retire := by
  have hop : s.residualOperand c ra = .ok (m, s.u ra) := residualOperand_ok.2 ⟨hmay, rfl⟩
  obtain ⟨-, hnames, -⟩ := hmay
  rw [← maxNumCoeff_eq hnames] at hcode
  rw [blockKey_eq_key] at hb ⊢
  exact command_completes hrun (ok_after hop (ok_after (orRaise_ok.2 hb) (ok_after hctx (ok_after hcode rfl))))

/-- Settles O57: the code of R280 is the one the model makes, and the default tables have every entry it needs. -/
theorem resblkEncodes : Obligations.ResblkEncodes := by
  unfold Obligations.ResblkEncodes
  intro c ra s m b nC hrun hmay hctx hb hgood hs
  refine ⟨fun bits hcoded => ?_, fun htoken hzeros hruns => ?_⟩
  · refine ⟨_, m.storeContext (blockKey c (s.u ra)) b nC,
      exec_resblk hrun hmay hb (context_of_contextIs hctx) (TransformBlock.code_of_codedAs hgood hcoded), rfl,
      outLenAfter_toNat, rfl, fun k hk => ?_, ?_⟩
    · rw [MbRecord.block_storeContext, if_neg hk]
    · rw [MbRecord.block_storeContext, if_pos rfl]
  · obtain ⟨hcur, -⟩ := hmay
    obtain ⟨⟨-, -, -, hblocks⟩, -⟩ := hs m (mem_records_of_cur hcur)
    obtain ⟨hlow, -⟩ := hctx.range
    exact TransformBlock.exists_codedAs htoken hzeros hruns hlow hctx.maxCoeffOf_le hgood (hblocks _ b hb)

end Sys2Proof.Machine
end

section
/-!
`RESBLK` may be issued again (R286). The context stored in a block is not read when a context is derived (R263, R264), so
the second `RESBLK` derives the context of the first, and stores it where it stands already.
-/

namespace Sys2Proof.Machine

/-! ## What the derivation of a context reads (R262 to R264) -/

/-- What the derivation of a context reads of a record: its fields, and the `total_coeff` of each of its blocks. -/
def MbRecord.seen (m : MbRecord) : MbRecord × (Nat → Option Nat) :=
  ({ m with tbs := [] }, fun k => (m.block k).map fun b => b.totalCoeff.toNat)

/-- A context stored in a block is not seen. -/
theorem seen_storeContext {m : MbRecord} {key : Nat} {b : TransformBlock} (hb : m.block key = some b) (nC : Int) :
    (m.storeContext key b nC).seen = m.seen := by
  have hblocks (k : Nat) : ((m.storeContext key b nC).block k).map (fun tb => tb.totalCoeff.toNat) =
      (m.block k).map fun tb => tb.totalCoeff.toNat := by
    rw [MbRecord.block_storeContext]
    split
    · subst k
      rw [hb]
      rfl
    · rfl
  exact Prod.ext rfl (funext hblocks)

/-- Two lookups of which the same is seen find nothing, both, or two things of which the same is seen. -/
theorem option_cases_of_map_eq {α β : Type} {f : α → β} {o o' : Option α} (h : o'.map f = o.map f) :
    (o = none ∧ o' = none) ∨ ∃ a a', o = some a ∧ o' = some a' ∧ f a' = f a := by
  cases o with
  | none => exact .inl ⟨rfl, Option.map_eq_none_iff.1 h⟩
  | some a =>
    obtain ⟨a', ha', hf⟩ := Option.map_eq_some_iff.1 h
    exact .inr ⟨a, a', rfl, ha', hf⟩

/-- What the derivation of a context reads of the state is the same in `s'` as in `s`. -/
structure SameSeen (s s' : State) : Prop where
  cfg : s'.cfg = s.cfg
  geo : s'.geo = s.geo
  map : s'.map = s.map
  params : s'.params = s.params
  records : s'.records.map MbRecord.seen = s.records.map MbRecord.seen

namespace SameSeen

variable {s s' : State} (h : SameSeen s s')
include h

theorem conf (r : ConfReg) : s'.conf r = s.conf r := by rw [State.conf, h.cfg, State.conf]

theorem record (i : Nat) : (s'.record i).map MbRecord.seen = (s.record i).map MbRecord.seen := by
  rw [State.record, State.record, ← List.getElem?_map, ← List.getElem?_map, h.records]

theorem lookup (a : Nat) : s'.lookup a = s.lookup a := by
  have hseen (t : State) :
      t.lookup a = (t.records.map MbRecord.seen).findIdx? fun v => decide (v.1.addr.toNat = a) := by
    rw [List.findIdx?_map]
    rfl
  rw [hseen, hseen, h.records]

theorem pairFrameFlag (top : Nat) : s'.pairFrameFlag top = s.pairFrameFlag top := by
  rw [State.pairFrameFlag, State.pairFrameFlag, h.lookup]
  cases s.lookup top with
  | none => rfl
  | some i =>
    rw [Option.bind_some, Option.bind_some]
    obtain ⟨hn, hn'⟩ | ⟨n, n', hn, hn', hseen⟩ := option_cases_of_map_eq (h.record i)
    · rw [hn, hn']
    · rw [hn, hn']
      exact congrArg (fun v => !v.1.fieldCoded) hseen

theorem ifAvailable (a : Nat) (c : Int) : s'.ifAvailable a c = s.ifAvailable a c := by
  have hgroup (b : Nat) : s'.sameGroup b a = s.sameGroup b a := by rw [State.sameGroup, h.map, State.sameGroup]
  have havailable : s'.available a c = s.available a c := by
    rw [State.available, h.geo, h.lookup, hgroup, State.available]
  rw [State.ifAvailable, havailable, State.ifAvailable]

variable {m m' : MbRecord} (hm : m'.seen = m.seen)
include hm

theorem neighbour (chroma : Bool) (o : FrameOverride) (x y : Int) :
    neighbour s' m' chroma o x y = neighbour s m chroma o x y := by
  have haddr : m'.addr = m.addr := congrArg (fun v => v.1.addr) hm
  have hfield : m'.fieldCoded = m.fieldCoded := congrArg (fun v => v.1.fieldCoded) hm
  have hnonMbaff (xR yR : Region) (yN : Int) :
      nonMbaff s' m'.addr.toNat xR yR yN = nonMbaff s m.addr.toNat xR yR yN := by
    unfold nonMbaff
    simp only [h.geo, h.ifAvailable, haddr]
  have hmbaff (xR yR : Region) (yN : Int) (maxH : Nat) : mbaff s' m' o xR yR yN maxH = mbaff s m o xR yR yN maxH := by
    have hframe : currMbFrameFlag m' o = currMbFrameFlag m o := by cases o <;> simp only [currMbFrameFlag, hfield]
    simp only [mbaff, hframe, h.geo, h.ifAvailable, h.pairFrameFlag, haddr]
  have hsize : s'.mbSize chroma = s.mbSize chroma := by rw [State.mbSize, h.geo, State.mbSize]
  have hfound : s'.found m' chroma o x y = s.found m chroma o x y := by
    rw [State.found, h.geo, hsize, hnonMbaff, hmbaff, State.found]
  have hresolve (f : Option (Nat × Int)) : s'.resolve chroma x f = s.resolve chroma x f := by
    simp only [State.resolve, hsize, h.lookup]
  have hwindow : InWindow s' chroma x y ↔ InWindow s chroma x y := by rw [InWindow, h.geo, hsize, InWindow]
  by_cases hw : InWindow s chroma x y
  · rw [neighbour_of_inWindow hw, neighbour_of_inWindow (hwindow.2 hw), hfound, hresolve]
  · rw [neighbour_of_not_inWindow hw, neighbour_of_not_inWindow (mt hwindow.1 hw)]

theorem neighbourCount {n n' : MbRecord} (hn : n'.seen = n.seen) (c : Category) (b : Nat) :
    s'.neighbourCount c m' n' b = s.neighbourCount c m n b := by
  have hcur : m'.type = m.type := congrArg (fun v => v.1.type) hm
  have htype : n'.type = n.type := congrArg (fun v => v.1.type) hn
  have hcbp : n'.cbp = n.cbp := congrArg (fun v => v.1.cbp) hn
  have hlegal : s'.intraRegistersLegal = s.intraRegistersLegal := by simp only [State.intraRegistersLegal, h.conf]
  have hblocked : s'.intraBlocked m' n' = s.intraBlocked m n := by
    simp only [State.intraBlocked, h.conf, h.params, hcur, htype]
  have hres : noResidual c n' b = noResidual c n b := by simp only [noResidual, hcbp]
  rw [State.neighbourCount, State.neighbourCount, hlegal, hblocked, hres, htype]
  have hblock := congrArg (fun v => v.2 ((contextCategory c n.type.isI16x16).key b)) hn
  obtain ⟨htb, htb'⟩ | ⟨tb, tb', htb, htb', htc⟩ := option_cases_of_map_eq hblock
  · rw [htb, htb']
  · simp only [htb, htb', htc]

theorem contribution (c : Category) (x y : Int) : s'.contribution c m' x y = s.contribution c m x y := by
  simp only [State.contribution, h.neighbour hm]
  refine bind_congr fun found => ?_
  cases found with
  | none => rfl
  | some r =>
    obtain ⟨hn, hn'⟩ | ⟨n, n', hn, hn', hseen⟩ := option_cases_of_map_eq (h.record r.index)
    · simp only [hn, hn', orRaise_none, error_bind]
    · simp only [hn, hn', orRaise_some, ok_bind, h.neighbourCount hm hseen]

theorem context (c : Category) (b : Nat) : s'.context c m' b = s.context c m b := by
  by_cases hc : c.code = 9
  · cases c with
    | chromaDC k => rw [State.context, State.context, State.chromaArrayType, State.chromaArrayType, h.geo]
    | _ => exact nomatch hc
  · simp only [context_of_neighbours hc, h.contribution hm]

end SameSeen

/-! ## A second `RESBLK` (R286) -/

theorem setEntry_setEntry {α : Type} (k : Nat) (a : α) (l : List (Nat × α)) :
    setEntry k a (setEntry k a l) = setEntry k a l := by
  induction l with
  | nil => simp [setEntry]
  | cons e rest ih =>
    obtain ⟨j, b⟩ := e
    rw [setEntry]
    split_ifs with hlt heq
    · simp [setEntry]
    · simp [setEntry]
    · rw [setEntry, if_neg hlt, if_neg heq, ih]

theorem setBlock_setBlock (m : MbRecord) (k : Nat) (b : TransformBlock) :
    (m.setBlock k b).setBlock k b = m.setBlock k b := by
  simp only [MbRecord.setBlock, setEntry_setEntry]

/-- A `RESBLK` that leaves the machine running found its operands, block, context and code. -/
theorem resblk_completed {c : Category} {ra : Reg} {s t : State} (h : exec (.resblk c ra) s = .next t)
    (ht : t.halted = false) : ∃ m b nC bits, MayEncode s c (s.u ra) m ∧ m.block (blockKey c (s.u ra)) = some b ∧
      s.context c m (s.u ra) = .ok nC ∧ b.code s.params nC (maxCoeffOf s c) = .ok bits ∧
      t = { s.emit bits with cur := some (m.storeContext (blockKey c (s.u ra)) b nC) : State }.retire := by
  rcases command_cases h with ⟨hhalt, rfl⟩ | ⟨-, u, hu, rfl⟩ | ⟨hrun, f, hf, rfl⟩
  case inl => exact absurd (hhalt.symm.trans ht) nofun
  case inr.inl =>
    simp only [bind_ok, orRaise_ok] at hu
    obtain ⟨⟨m, j⟩, hop, b, hb, nC, hctx, bits, hcode, hu⟩ := hu
    obtain ⟨hmay, rfl⟩ := residualOperand_ok.1 hop
    obtain ⟨hcur, hnames, hfits⟩ := hmay
    rw [maxNumCoeff_eq hnames] at hcode
    rw [← blockKey_eq_key] at hb hu
    exact ⟨m, b, nC, bits, ⟨hcur, hnames, hfits⟩, hb, hctx, hcode, congrArg State.retire (Except.ok.inj hu).symm⟩
  case inr.inr =>
    have hfatal : f ≠ .rangeWarning := by
      refine (?_ : Fatal _) f hf
      exact fatal_bind (fatal_residualOperand s c ra) fun _ => fatal_bind (fatal_orRaise (by decide)) fun _ =>
        fatal_bind (fatal_context s c _ _) fun _ => fatal_bind (fatal_code _ _ _ _) fun _ => fatal_ok _
    exact absurd ⟨_, h, raise_raises hfatal hrun⟩ (not_raises_of_running h ht)

/-- Settles O58: the first `RESBLK` changed nothing that the second reads but the context in its own block, and that is
the one the second stores. -/
theorem resblkRepeats : Obligations.ResblkRepeats := by
  unfold Obligations.ResblkRepeats
  intro c ra s t hexec ht
  obtain ⟨m, b, nC, bits, ⟨hcur, hnames, hfits⟩, hb, hctx, hcode, rfl⟩ := resblk_completed hexec ht
  have hseen := seen_storeContext hb nC
  have hsame : SameSeen s { s.emit bits with cur := some (m.storeContext (blockKey c (s.u ra)) b nC) : State }.retire :=
    ⟨rfl, rfl, rfl, rfl, by simp [State.records, hcur, hseen]⟩
  have hblock : (m.storeContext (blockKey c (s.u ra)) b nC).block (blockKey c (s.u ra)) =
      some { b with nC := some (BitVec.ofInt 32 nC) } := by
    rw [MbRecord.block_storeContext, if_pos rfl]
  exact ⟨_, bits, exec_resblk ht ⟨rfl, hnames, hfits⟩ hblock ((hsame.context hseen c _).trans hctx) hcode, ht, rfl, rfl,
    congrArg some (setBlock_setBlock ..)⟩

end Sys2Proof.Machine
end

section
/-!
In the default code tables no word begins another, and the Kraft sums are those of the spec (R307, R313, R316, R346). A list
of words is read as a binary tree, a word being the path to its leaf: one walk sees that no word lies on the path to
another, and adds up the leaves.
-/

namespace Sys2Proof.Machine

/-- What follows the first bit in the words that begin with `b`: the subtree on that side. -/
def wordsAfter (b : Bool) (words : List Bits) : List Bits :=
  words.filterMap fun
    | [] => none
    | c :: w => if c = b then some w else none

/-- The number of paths of `n` bits that pass through a leaf of the tree of `words`; none when a word is longer than `n`
bits or lies on the path to another. -/
def leafPaths : Nat → List Bits → Option Nat
  | _, [] => some 0
  | n, [[]] => some (2 ^ n)
  | 0, _ => none
  | n + 1, words =>
    if [] ∈ words then none
    else (leafPaths n (wordsAfter false words)).bind fun k =>
      (leafPaths n (wordsAfter true words)).map fun l => k + l

/-- Neither word begins the other. -/
def Apart (a b : Bits) : Prop := ¬a <+: b ∧ ¬b <+: a

/-- The Kraft sum in units of `2 ^ -n`. -/
def kraftUpTo (n : Nat) (words : List Bits) : Nat := (words.map fun w => 2 ^ (n - w.length)).sum

theorem prefixFree_of_pairwise {words : List Bits} (h : words.Pairwise Apart) : prefixFree words = true := by
  rw [List.pairwise_iff_getElem] at h
  simp only [prefixFree, List.all_eq_true, Prod.forall, List.mk_mem_zipIdx_iff_getElem?, Bool.or_eq_true, beq_iff_eq,
    Bool.not_eq_true', ← Bool.not_eq_true, List.isPrefixOf_iff_prefix, List.getElem?_eq_some_iff]
  rintro a i ⟨hi, rfl⟩ b j ⟨hj, rfl⟩
  rcases lt_trichotomy i j with hij | hij | hij
  · exact .inr (h i j hi hj hij).1
  · exact .inl hij
  · exact .inr (h j i hj hi hij).2

theorem Apart.cons {a b : Bits} (h : Apart a b) (c : Bool) : Apart (c :: a) (c :: b) := by
  simpa [Apart, List.cons_prefix_cons] using h

theorem apart_of_head_ne {c d : Bool} (h : c ≠ d) (a b : Bits) : Apart (c :: a) (d :: b) := by
  simp [Apart, List.cons_prefix_cons, h, h.symm]

@[simp] theorem wordsAfter_cons_same (c : Bool) (w : Bits) (words : List Bits) :
    wordsAfter c ((c :: w) :: words) = w :: wordsAfter c words := by
  simp [wordsAfter]

@[simp] theorem wordsAfter_cons_other {b c : Bool} (h : c ≠ b) (w : Bits) (words : List Bits) :
    wordsAfter b ((c :: w) :: words) = wordsAfter b words := by
  simp [wordsAfter, h]

theorem mem_wordsAfter {b : Bool} {w : Bits} {words : List Bits} (h : b :: w ∈ words) : w ∈ wordsAfter b words :=
  List.mem_filterMap.2 ⟨_, h, if_pos rfl⟩

theorem exists_cons_of_mem {words : List Bits} (hnil : [] ∉ words) {word : Bits} (h : word ∈ words) :
    ∃ c w, word = c :: w :=
  List.exists_cons_of_ne_nil fun e => hnil (e ▸ h)

theorem pairwise_apart_of_wordsAfter {words : List Bits} (hnil : [] ∉ words)
    (h : ∀ b, (wordsAfter b words).Pairwise Apart) : words.Pairwise Apart := by
  induction words with
  | nil => exact .nil
  | cons word rest ih =>
    obtain ⟨c, w, rfl⟩ := exists_cons_of_mem hnil List.mem_cons_self
    have hc := h c
    rw [wordsAfter_cons_same, List.pairwise_cons] at hc
    refine .cons (fun v hv => ?_) (ih (fun hm => hnil (.tail _ hm)) fun b => ?_)
    · obtain ⟨d, u, rfl⟩ := exists_cons_of_mem hnil (.tail _ hv)
      rcases eq_or_ne c d with rfl | hd
      · exact (hc.1 u (mem_wordsAfter hv)).cons c
      · exact apart_of_head_ne hd w u
    · rcases eq_or_ne c b with rfl | hb
      · exact hc.2
      · exact wordsAfter_cons_other hb w rest ▸ h b

theorem kraftUpTo_succ (n : Nat) {words : List Bits} (hnil : [] ∉ words) :
    kraftUpTo (n + 1) words = kraftUpTo n (wordsAfter false words) + kraftUpTo n (wordsAfter true words) := by
  induction words with
  | nil => rfl
  | cons word rest ih =>
    obtain ⟨c, w, rfl⟩ := exists_cons_of_mem hnil List.mem_cons_self
    have ih := ih fun hm => hnil (.tail _ hm)
    simp only [kraftUpTo] at ih ⊢
    cases c <;> simp [ih] <;> omega

theorem pairwise_and_kraftUpTo_of_leafPaths {n k : Nat} {words : List Bits} (h : leafPaths n words = some k) :
    words.Pairwise Apart ∧ kraftUpTo n words = k := by
  induction n, words using leafPaths.induct generalizing k with
  | case1 n =>
    rw [leafPaths, Option.some_inj] at h
    exact ⟨.nil, h⟩
  | case2 n =>
    rw [leafPaths, Option.some_inj] at h
    exact ⟨.cons nofun .nil, by simpa [kraftUpTo] using h⟩
  | case3 words hempty hleaf => simp [leafPaths] at h
  | case4 n words hempty hleaf hnil => simp [leafPaths, hnil] at h
  | case5 n words hempty hleaf hnil ihFalse ihTrue =>
    simp only [leafPaths, hnil, if_false, Option.bind_eq_some_iff, Option.map_eq_some_iff] at h
    obtain ⟨l, hl, r, hr, rfl⟩ := h
    obtain ⟨hpl, hkl⟩ := ihFalse hl
    obtain ⟨hpr, hkr⟩ := ihTrue hr
    exact ⟨pairwise_apart_of_wordsAfter hnil (Bool.rec hpl hpr), by rw [kraftUpTo_succ n hnil, hkl, hkr]⟩

/-- One walk of a table decides both facts about it. -/
theorem prefixFree_and_kraft {words : List Bits} {k : Nat} (h : leafPaths 16 words = some k) :
    prefixFree words = true ∧ kraft words = k :=
  (pairwise_and_kraftUpTo_of_leafPaths h).imp_left prefixFree_of_pairwise

/-! ## The walks of the default tables -/

theorem leafPaths_coeffTokens :
    ∀ e ∈ [(TokenClass.n0, 65534), (.n2, 65528), (.n4, 65472), (.n8, 63488), (.cdc420, 65536), (.cdc422, 65480)],
      leafPaths 16 ((coeffTokens.family e.1).flatten.filterMap id) = some e.2 := by
  decide

theorem leafPaths_totalZeros : ∀ c, ∀ col ∈ totalZeros.columns c,
    leafPaths 16 ([col].flatten.filterMap id) =
      some (if ([col].flatten.filterMap id).length = 16 then 65408 else 65536) := by
  rintro (_ | _ | _) <;> decide

theorem leafPaths_runBefores : ∀ col ∈ present runBefores,
    leafPaths 16 ([col].flatten.filterMap id) =
      some (if ([col].flatten.filterMap id).length = 15 then 65504 else 65536) := by
  decide

/-- R346: each set of codes has its number of words, and they fill the tree. -/
theorem leafPaths_mbTypeBins : ∀ e ∈ [(SliceClass.i, 26), (.p, 30), (.sp, 30), (.b, 49), (.si, 27)],
    ((((mbTypeBins.row e.1).filterMap id).map Prod.fst).length = e.2) ∧
      leafPaths 16 (((mbTypeBins.row e.1).filterMap id).map Prod.fst) = some 65536 := by
  decide

/-- Settles O60: the walk of each table ends, with the sum the spec gives. -/
theorem tablesPrefixFree : Obligations.TablesPrefixFree := by
  unfold Obligations.TablesPrefixFree
  refine ⟨fun e he => ?_, fun c _ col hcol => ?_, fun col hcol => ?_, fun e he => ?_⟩
  · exact prefixFree_and_kraft (leafPaths_coeffTokens e he)
  · exact prefixFree_and_kraft (leafPaths_totalZeros c col hcol)
  · exact prefixFree_and_kraft (leafPaths_runBefores col hcol)
  · obtain ⟨hlength, hpaths⟩ := leafPaths_mbTypeBins e he
    exact ⟨hlength, prefixFree_and_kraft hpaths⟩

end Sys2Proof.Machine
end

section
/-!
Faults and the halted state (R402 to R406). A retiring command leaves the status registers alone (`Did.status_eq`), and
`exec_next` has the other ways a step can end.
-/

namespace Sys2Proof.Machine

/-! ## The status registers (R51 to R53, R404) -/

/-- No instruction writes a status register before it is counted (R53, R404). -/
theorem Did.status_eq {i : Instr} {s u : State} (did : Did i s u) :
    u.status = s.status ∧ u.faultCmd = s.faultCmd ∧ u.cmdCnt = s.cmdCnt := by
  cases did with
  | wrote _ e | emitted _ _ _ e => rw [e]; exact ⟨rfl, rfl, rfl⟩
  | stored => exact ⟨State.status_setElement .., State.faultCmd_setElement .., State.cmdCnt_setElement ..⟩
  | configured | opened | began | setField | setSymbol | committed | mapped | coded => exact ⟨rfl, rfl, rfl⟩

/-- Settles O8: the four ways an instruction can end, less that of the halted state. -/
theorem faultsArePrecise : Obligations.FaultsArePrecise := by
  unfold Obligations.FaultsArePrecise
  intro i s t hrun h
  rcases exec_next h with ⟨hhalt, _⟩ | ⟨_, f, hf, rfl⟩ | ⟨hi, _⟩ | ⟨u, did, rfl⟩
  · exact nomatch hrun.symm.trans hhalt
  · exact .inr (.inr ⟨f, hf, raise_raises hf hrun⟩)
  · exact .inl hi
  · obtain ⟨hstatus, hfault, hcount⟩ := did.status_eq
    exact .inr (.inl ⟨hstatus, hfault, congrArg (· + 1) hcount⟩)

/-! ## Legal values of `STATUS` (R402, R406) -/

theorem StatusLegal.eq_zero_of_running {s : State} (h : StatusLegal s) (hrun : s.halted = false) : s.status = 0 := by
  rw [State.halted] at hrun
  rcases h with h | h | h | h | h | h
  · exact h
  all_goals
    rw [h] at hrun
    exact absurd hrun (by decide)

/-- A fatal class met with no fault before it leaves its own sticky bit, code and `HALT` (R404). -/
theorem StatusLegal.raise {s : State} (h : StatusLegal s) {f : FaultClass} (hrun : s.halted = false)
    (hf : f ≠ .rangeWarning) : StatusLegal (s.raise f) := by
  rw [StatusLegal, State.status_raise, h.eq_zero_of_running hrun]
  cases f with
  | rangeWarning => exact absurd rfl hf
  | configurationError | contextDerivationError | arithmeticOverflow | illegalCommand | hostProtocolError => decide

theorem statusLegal_stepInvariant : StepInvariant StatusLegal where
  port _ h := h
  raise hrun hf h := h.raise hrun hf
  softReset _ := .inl rfl
  retire did h := by
    obtain ⟨hstatus, -, -⟩ := did.status_eq
    rwa [StatusLegal, State.status_retire, hstatus]

/-- Settles O9: a class is raised only while `STATUS` is 0, and nothing else but `SRESET` writes it. -/
theorem statusLegalKept : Obligations.StatusLegalKept := by
  unfold Obligations.StatusLegalKept
  exact fun _ _ hs h => statusLegal_stepInvariant.step h hs

/-! ## Every step answers (R403) -/

theorem exec_answers (i : Instr) (s : State) : ∃ t, exec i s = .next t := by
  rcases exec_cases i s with ⟨_, _, _, h⟩ | ⟨_, h⟩ | ⟨e, h, _⟩
  · exact ⟨_, h⟩
  · exact ⟨_, h⟩
  · exact h ▸ command_next s e

/-- Settles O6: the block waits, executes the instruction, or answers the illegal word. -/
theorem stepAlwaysAnswers : Obligations.StepAlwaysAnswers := by
  unfold Obligations.StepAlwaysAnswers
  intro s
  cases hp : s.port with
  | nil => exact ⟨s, step_nil hp⟩
  | cons w rest =>
    cases hw : decode w with
    | ok i => exact step_decoded hp hw ▸ exec_answers i _
    | error e => exact step_illegal hp hw ▸ command_next _ _

/-! ## The halted state (R405) -/

/-- While `HALT = 1` an instruction that is none of the three accepted ones is ignored. -/
theorem exec_halted {i : Instr} {s : State} (hhalt : s.halted = true)
    (hi : (∀ rd, i ≠ .statrd rd) ∧ (∀ r rd, i ≠ .cfgrd r rd) ∧ i ≠ .sreset) : exec i s = .next s := by
  obtain ⟨hstatrd, hcfgrd, hsreset⟩ := hi
  rcases exec_cases i s with ⟨rd, _, ⟨r, h, _⟩ | ⟨h, _⟩, _⟩ | ⟨h, _⟩ | ⟨_, h, _⟩
  · exact absurd h (hcfgrd r rd)
  · exact absurd h (hstatrd rd)
  · exact absurd h hsreset
  · rw [h, command_halted hhalt]

theorem illegalWord_halted {s : State} (hhalt : s.halted = true) : s.illegalWord = .next s := command_halted hhalt

theorem halted_softReset (s : State) : s.softReset.halted = false := by
  change haltBit 0 = false
  decide

/-- Only `SRESET` leaves the halted state. -/
theorem eq_sreset_of_exec_leaves_halt {i : Instr} {s t : State} (h : exec i s = .next t) (hhalt : s.halted = true)
    (hrun : t.halted = false) : i = .sreset := by
  rcases exec_next h with ⟨_, rfl⟩ | ⟨hs, _⟩ | ⟨hi, _⟩ | ⟨u, did, rfl⟩
  · exact nomatch hrun.symm.trans hhalt
  · exact nomatch hs.symm.trans hhalt
  · exact hi
  · obtain ⟨hstatus, -, -⟩ := did.status_eq
    exact nomatch hrun.symm.trans ((congrArg haltBit hstatus).trans hhalt)

/-- Settles O7: the three accepted instructions run as ever, and every other word is ignored, so the state stays halted
after it. -/
theorem haltedState : Obligations.HaltedState := by
  unfold Obligations.HaltedState
  intro s w rest hhalt hp
  have hhalt' : State.halted { s with port := rest } = true := hhalt
  refine ⟨fun rd hw => ?statrd, fun r rd hw => ?cfgrd, fun hw => ?sreset, fun hother => ?ignored,
    fun t h hrun => ?leaves⟩
  case statrd => exact ⟨_, step_decoded hp hw, State.reg_setReg_same .., writesOnly_setReg ..⟩
  case cfgrd => exact ⟨_, step_decoded hp hw, State.reg_setReg_same .., writesOnly_setReg ..⟩
  case sreset => exact ⟨_, step_decoded hp hw, halted_softReset _, rfl⟩
  case ignored =>
    cases hw : decode w with
    | ok i => exact (step_decoded hp hw).trans (exec_halted hhalt' (hother i hw))
    | error e => exact (step_illegal hp hw).trans (illegalWord_halted hhalt')
  case leaves =>
    cases hw : decode w with
    | ok i => rw [eq_sreset_of_exec_leaves_halt ((step_decoded hp hw).symm.trans h) hhalt' hrun]
    | error e =>
      have ht := (illegalWord_halted hhalt').symm.trans ((step_illegal hp hw).symm.trans h)
      cases ht
      exact nomatch hrun.symm.trans hhalt'

end Sys2Proof.Machine
end

section
/-!
Moves, configuration and status (R370 to R375, R381).
-/

namespace Sys2Proof.Machine

/-! ## Moves and configuration registers -/

/-- Settles O19: each of the three is one state operation, with no test before it. -/
theorem nopLdiMov : Obligations.NopLdiMov := by
  unfold Obligations.NopLdiMov
  intro s hrun
  refine ⟨⟨_, command_ok hrun, writesOnly_retire s⟩, fun rd imm => ?_, fun rd ra => ?_⟩
  · exact ⟨_, command_ok hrun, State.reg_setReg_same s rd imm, writesOnly_setReg s rd imm⟩
  · exact ⟨_, command_ok hrun, State.reg_setReg_same s rd _, writesOnly_setReg s rd _⟩

/-- Settles O20: one write of a configuration register. -/
theorem cfgwrStores : Obligations.CfgwrStores := by
  unfold Obligations.CfgwrStores
  intro r ra s hrun
  exact ⟨_, command_ok hrun, State.conf_setConf_same s r _, fun q hq => State.conf_setConf_other s q r _ hq, rfl⟩

/-! ## Reading registers (R374, R381) -/

/-- `OUTLEN` is read in two halves (R50). -/
theorem toNat_readCsr_outLenLow (s : State) : (s.readCsr .outLenLow).toNat = s.outLen.toNat % 2 ^ 32 := by
  simp [State.readCsr]

theorem toNat_readCsr_outLenHigh (s : State) : (s.readCsr .outLenHigh).toNat = s.outLen.toNat / 2 ^ 32 := by
  have h := s.outLen.isLt
  simp only [State.readCsr, BitVec.extractLsb'_toNat, Nat.shiftRight_eq_div_pow]
  omega

theorem toNat_readCsr_mbCount (s : State) : (s.readCsr .mbCount).toNat = s.mbstore.length % 2 ^ 32 :=
  BitVec.toNat_ofNat _ _

/-- Settles O21: both write what `readCsr` has under the number. -/
theorem cfgrdReads : Obligations.CfgrdReads := by
  unfold Obligations.CfgrdReads
  intro rd s
  refine ⟨⟨_, rfl, State.reg_setReg_same s rd _, writesOnly_setReg s rd _⟩, fun r => ?_⟩
  have hread : (s.setReg rd (s.readCsr r)).retire.reg rd = s.readCsr r := State.reg_setReg_same s rd _
  refine ⟨_, rfl, writesOnly_setReg s rd _, ?_⟩
  rw [hread]
  refine ⟨?conf, ?_, ?_, ?_, ?_, ?_, ?_, ?_, ?_, ?_, ?_, ?_, ?_, ?outLenLow, ?outLenHigh, ?mbCount, ?_⟩
  case conf => rintro c rfl; rfl
  case outLenLow => rintro rfl; exact toNat_readCsr_outLenLow s
  case outLenHigh => rintro rfl; exact toNat_readCsr_outLenHigh s
  case mbCount => rintro rfl; exact toNat_readCsr_mbCount s
  all_goals rintro rfl; rfl

/-! ## `CFGWRA` (R375) -/

/-- The index test of `CFGWRA` is that of R375. -/
theorem outsideArray_eq_false_iff {s : State} {a : ArrayId} {i : Nat} :
    outsideArray s.params a i = false ↔
      (a ≠ .sliceGroupId → i < 8) ∧ (a = .sliceGroupId → WithinMaxMbs s (i + 1)) := by
  cases a with
  | sliceGroupId => simpa [outsideArray] using atMaxMbs_false
  | runLengthMinus1 | topLeft | bottomRight => simp [outsideArray]

theorem getD_setIfInBounds_same {v : Vector Word 8} {i : Nat} (hi : i < 8) (w : Word) :
    (v.setIfInBounds i w)[i]?.getD 0 = w := by
  rw [Vector.getElem?_setIfInBounds_self_of_lt hi, Option.getD_some]

theorem State.element_setElement_same {s : State} (hwf : Memory.wf s.sliceGroupId = true) {a : ArrayId} {i : Nat}
    (hi : outsideArray s.params a i = false) (v : Word) : (s.setElement a i v).element a i = v := by
  obtain ⟨height, -⟩ := outsideArray_eq_false_iff.1 hi
  cases a with
  | sliceGroupId => exact Memory.read_write_same hwf i v
  | runLengthMinus1 | topLeft | bottomRight => exact getD_setIfInBounds_same (height nofun) v

theorem State.element_setElement_other (s : State) {a c : ArrayId} {i j : Nat} (h : c ≠ a ∨ j ≠ i) (v : Word) :
    (s.setElement a i v).element c j = s.element c j := by
  by_cases hc : c = a
  · subst hc
    have hj : j ≠ i := h.resolve_left (· rfl)
    cases c with
    | sliceGroupId => exact Memory.read_write_other _ v hj
    | runLengthMinus1 | topLeft | bottomRight =>
      exact congrArg (Option.getD · 0) (Vector.getElem?_setIfInBounds_ne hj.symm)
  · cases a <;> cases c <;> simp [State.setElement, State.element] at hc ⊢

/-- Settles O22: the one test is that of the index. -/
theorem cfgwraStores : Obligations.CfgwraStores := by
  unfold Obligations.CfgwraStores
  intro a ra rb s hrun hwf inside
  have htest : outsideArray s.params a (s.u rb) = false ↔ inside := outsideArray_eq_false_iff
  refine ⟨fun hin => ?_, fun hout => ?_⟩
  · have hin := htest.2 hin
    refine ⟨_, command_completes hrun (ok_after (raiseIf_ok (u := ()).2 hin) rfl),
      State.element_setElement_same hwf hin _, fun c i h => State.element_setElement_other s h _, ?_⟩
    cases a <;> rfl
  · have hout := Bool.eq_true_of_not_eq_false (mt htest.1 hout)
    exact command_raises hrun nofun (error_first (raiseIf_error.2 ⟨hout, rfl⟩))

end Sys2Proof.Machine
end

section
/-!
`SLICESTART` (R38, R376). Its tests are those of the chroma format, of the colour planes, and of the picture; the last
raise `HostProtocolError` only, and pass just for a legal picture (`pictureTests_ok`).
-/

namespace Sys2Proof.Machine

/-! ## The tests -/

/-- The flags and sizes that `SLICESTART` takes (R376): each flag 0 or 1, no field picture of frame macroblocks only,
and a picture within the limits. -/
structure PictureLegal (s : State) : Prop where
  frameMbsOnly : (s.conf frameMbsOnlyFlag).toNat ≤ 1
  mbaff : (s.conf mbAdaptiveFrameFieldFlag).toNat ≤ 1
  fieldPic : (s.conf fieldPicFlag).toNat ≤ 1
  notFieldOfFrames : ¬(s.conf fieldPicFlag = 1 ∧ s.conf frameMbsOnlyFlag = 1)
  width : (s.conf picWidthInMbsMinus1).toNat ≤ 65535
  height : (s.conf picHeightInMapUnitsMinus1).toNat ≤ 65535
  capacity : WithinMaxMbs s (((s.conf picWidthInMbsMinus1).toNat + 1) * picHeightInMbs s)
  area : ((s.conf picWidthInMbsMinus1).toNat + 1) * ((s.conf picHeightInMapUnitsMinus1).toNat + 1) < 2 ^ 32

/-- The tests of the flags and sizes, in the order of R376. -/
def pictureTests (s : State) : Except FaultClass Unit := do
  raiseIf (decide (1 < (s.conf frameMbsOnlyFlag).toNat)) .hostProtocolError
  raiseIf (decide (1 < (s.conf mbAdaptiveFrameFieldFlag).toNat)) .hostProtocolError
  raiseIf (decide (1 < (s.conf fieldPicFlag).toNat)) .hostProtocolError
  raiseIf (s.conf fieldPicFlag == 1 && s.conf frameMbsOnlyFlag == 1) .hostProtocolError
  raiseIf (decide (65535 < (s.conf picWidthInMbsMinus1).toNat ∨
    65535 < (s.conf picHeightInMapUnitsMinus1).toNat)) .hostProtocolError
  raiseIf (s.params.overMaxMbs (((s.conf picWidthInMbsMinus1).toNat + 1) * picHeightInMbs s) ||
    decide (2 ^ 32 ≤ ((s.conf picWidthInMbsMinus1).toNat + 1) * ((s.conf picHeightInMapUnitsMinus1).toNat + 1)))
    .hostProtocolError

/-- `separate_colour_plane_flag` is not 0 or 1, or is 1 without the chroma format 4:4:4 (R376). -/
abbrev ColourPlanesIllegal (s : State) (cfi : Nat) : Prop :=
  1 < (s.conf separateColourPlaneFlag).toNat ∨ ((s.conf separateColourPlaneFlag).toNat = 1 ∧ cfi ≠ 3)

theorem pictureTests_raisesOnly (s : State) : RaisesOnly .hostProtocolError (pictureTests s) := by
  iterate 5 refine raisesOnly_bind raisesOnly_raiseIf fun _ => ?_
  exact raisesOnly_raiseIf

theorem pictureTests_ok {s : State} : pictureTests s = .ok () ↔ PictureLegal s := by
  simp only [pictureTests, bind_ok, raiseIf_ok, exists_const, decide_eq_false_iff_not, Bool.or_eq_false_iff,
    Bool.and_eq_false_iff, beq_eq_false_iff_ne, not_or, not_lt, not_le, overMaxMbs_false]
  constructor
  · rintro ⟨hframe, hmbaff, hfield, hboth, ⟨hwidth, hheight⟩, hcap, harea⟩
    exact ⟨hframe, hmbaff, hfield, not_and_or.2 hboth, hwidth, hheight, hcap, harea⟩
  · rintro ⟨hframe, hmbaff, hfield, hboth, hwidth, hheight, hcap, harea⟩
    exact ⟨hframe, hmbaff, hfield, not_and_or.1 hboth, ⟨hwidth, hheight⟩, hcap, harea⟩

theorem chromaFormat_of_le {n : Nat} (h : n ≤ 3) : chromaFormat n = .ok n := if_neg (Nat.not_lt.2 h)

theorem chromaFormat_fault {n : Nat} (h : 3 < n) (hpolicy : Config.chromaOorPolicy = .fault) :
    chromaFormat n = .error .configurationError := by
  rw [chromaFormat, if_pos h, hpolicy]

theorem chromaFormat_default420 {n : Nat} (h : 3 < n) (hpolicy : Config.chromaOorPolicy = .default420) :
    chromaFormat n = .ok 1 := by
  rw [chromaFormat, if_pos h, hpolicy]

theorem not_colourPlanesIllegal {s : State} {cfi : Nat} (hscp : (s.conf separateColourPlaneFlag).toNat ≤ 1)
    (h : (s.conf separateColourPlaneFlag).toNat = 1 → cfi = 3) : ¬ColourPlanesIllegal s cfi :=
  not_or.2 ⟨Nat.not_lt.2 hscp, fun ⟨hone, hne⟩ => hne (h hone)⟩

/-! ## The command -/

theorem exec_slicestart (s : State) :
    exec .slicestart s = s.command (do
      let cfi ← chromaFormat (s.conf chromaFormatIdc).toNat
      raiseIf (decide (ColourPlanesIllegal s cfi)) .configurationError
      pictureTests s
      .ok (s.openSlice (latchedGeometry s cfi))) := by
  change execSlicestart s = _
  simp only [execSlicestart, pictureTests, bind_assoc]

section

variable {s : State} (hrun : s.halted = false) {cfi : Nat}
  (hcfi : chromaFormat (s.conf chromaFormatIdc).toNat = .ok cfi)
include hrun hcfi

theorem exec_slicestart_raises_configuration (h : ColourPlanesIllegal s cfi) :
    exec .slicestart s = .next (s.raise .configurationError) := by
  rw [exec_slicestart, hcfi, ok_bind, raiseIf_of h, error_bind, command_error hrun]

variable (hcolour : ¬ColourPlanesIllegal s cfi)
include hcolour

theorem exec_slicestart_raises_protocol (h : ¬PictureLegal s) :
    exec .slicestart s = .next (s.raise .hostProtocolError) := by
  have htests : pictureTests s = .error .hostProtocolError :=
    (pictureTests_raisesOnly s).error_of_not_ok fun _ => mt pictureTests_ok.1 h
  rw [exec_slicestart, hcfi, ok_bind, raiseIf_of_not hcolour, ok_bind, htests, error_bind, command_error hrun]

theorem exec_slicestart_opens (h : PictureLegal s) :
    exec .slicestart s = .next (s.openSlice (latchedGeometry s cfi)).retire := by
  rw [exec_slicestart, hcfi, ok_bind, raiseIf_of_not hcolour, ok_bind, pictureTests_ok.2 h, ok_bind, command_ok hrun]

end

/-! ## The derived registers (R38) -/

theorem conf_eq_one {s : State} {r : ConfReg} : s.conf r = 1 ↔ (s.conf r).toNat = 1 := BitVec.toNat_inj (y := 1).symm

theorem conf_eq_zero {s : State} {r : ConfReg} : s.conf r = 0 ↔ (s.conf r).toNat = 0 := BitVec.toNat_inj (y := 0).symm

/-- Each chroma register holds the number of R38 for the chroma array type. -/
theorem toNat_chromaRegisters {cat : Nat} (h : cat ≤ 3) :
    (BitVec.ofNat 32 cat).toNat = cat ∧
    (if cat = 0 then 0 else if cat = 3 then 16 else 8 : Word).toNat =
      (if cat = 0 then 0 else if cat = 3 then 16 else 8) ∧
    (if cat = 0 then 0 else if cat = 1 then 8 else 16 : Word).toNat =
      (if cat = 0 then 0 else if cat = 1 then 8 else 16) := by
  interval_cases cat <;> decide

/-- Settles O23: the tests pass, and each register fits its 32 bits. -/
theorem slicestartLatches : Obligations.SlicestartLatches := by
  unfold Obligations.SlicestartLatches
  intro s hrun cfi scp w h frameMbsOnly mbaffFlag fieldPic cat hcfi hscp hcolour hframe hmbaff hfield hboth hw hh harea
    hcap
  have hboth' : ¬(s.conf fieldPicFlag = 1 ∧ s.conf frameMbsOnlyFlag = 1) := by rwa [conf_eq_one, conf_eq_one]
  have hlegal : PictureLegal s := ⟨hframe, hmbaff, hfield, hboth', by omega, by omega, hcap, harea⟩
  refine ⟨_, exec_slicestart_opens hrun (chromaFormat_of_le hcfi) (not_colourPlanesIllegal hscp hcolour) hlegal, rfl,
    ?_⟩
  have hheight : (2 - frameMbsOnly) * h / (1 + fieldPic) = h ∨ (2 - frameMbsOnly) * h / (1 + fieldPic) = 2 * h :=
    picHeightInMbs_cases hframe hfield hboth'
  obtain ⟨hcat, hwidthC, hheightC⟩ := toNat_chromaRegisters (chromaArrayTypeOf_le (separate := scp) hcfi)
  refine ⟨Nat.mod_eq_of_lt (by omega), Nat.mod_eq_of_lt (by omega), Nat.mod_eq_of_lt harea, Nat.mod_eq_of_lt ?height,
    toNat_picSizeWord, hcat, hwidthC, hheightC, ?mbaff, rfl⟩
  case height =>
    change (2 - frameMbsOnly) * h / (1 + fieldPic) < 2 ^ 32
    omega
  case mbaff =>
    simp only [State.geo_retire, State.geo_openSlice, latchedGeometry, conf_eq_one, conf_eq_zero]
    split <;> rfl

/-! ## The faults (R376) -/

/-- The configuration `SLICESTART` reads beside `CHROMA_FORMAT_IDC` is untouched by a write of that. -/
theorem pictureTests_setConf_chroma (s : State) (v : Word) :
    pictureTests (s.setConf chromaFormatIdc v) = pictureTests s := by
  simp (disch := decide) only [pictureTests, picHeightInMbs, State.conf_setConf_other, State.params_setConf]

theorem latchedGeometry_setConf_chroma (s : State) (v : Word) (cfi : Nat) :
    latchedGeometry (s.setConf chromaFormatIdc v) cfi = latchedGeometry s cfi := by
  simp (disch := decide) only [latchedGeometry, picHeightInMbs, State.conf_setConf_other]

/-- Under the policy `default420` an out-of-range chroma format acts as 1, whether the other tests pass or not (log
entry 7). -/
theorem slicestart_default420 {s : State} (hrun : s.halted = false) (hcfi : 3 < (s.conf chromaFormatIdc).toNat)
    (hpolicy : Config.chromaOorPolicy = .default420) :
    ∃ t t', exec .slicestart s = .next t ∧ exec .slicestart (s.setConf chromaFormatIdc 1) = .next t' ∧
      t = { t' with cfg := s.cfg } := by
  have hformat := chromaFormat_default420 hcfi hpolicy
  have hrun' : (s.setConf chromaFormatIdc 1).halted = false := hrun
  have hformat' : chromaFormat ((s.setConf chromaFormatIdc 1).conf chromaFormatIdc).toNat = .ok 1 := by
    rw [State.conf_setConf_same]
    exact chromaFormat_of_le (by decide)
  have hcolour : ColourPlanesIllegal (s.setConf chromaFormatIdc 1) 1 ↔ ColourPlanesIllegal s 1 := by
    rw [ColourPlanesIllegal, State.conf_setConf_other _ _ _ _ (by decide)]
  have hlegal : PictureLegal (s.setConf chromaFormatIdc 1) ↔ PictureLegal s := by
    rw [← pictureTests_ok, pictureTests_setConf_chroma, pictureTests_ok]
  by_cases hc : ColourPlanesIllegal s 1
  · exact ⟨_, _, exec_slicestart_raises_configuration hrun hformat hc,
      exec_slicestart_raises_configuration hrun' hformat' (hcolour.2 hc), rfl⟩
  by_cases hp : PictureLegal s
  · refine ⟨_, _, exec_slicestart_opens hrun hformat hc hp,
      exec_slicestart_opens hrun' hformat' (mt hcolour.1 hc) (hlegal.2 hp), ?_⟩
    rw [latchedGeometry_setConf_chroma]
    rfl
  · exact ⟨_, _, exec_slicestart_raises_protocol hrun hformat hc hp,
      exec_slicestart_raises_protocol hrun' hformat' (mt hcolour.1 hc) (mt hlegal.1 hp), rfl⟩

/-- Settles O24: the class of the first test that fails, and the two policies for an out-of-range chroma format. -/
theorem slicestartFaults : Obligations.SlicestartFaults := by
  unfold Obligations.SlicestartFaults
  intro s hrun cfi scp w h
  refine ⟨fun hcfi hbad => ?colour, fun hcfi hscp hcolour hbad => ?picture,
    fun hcfi => ⟨fun hpolicy => ?fault, slicestart_default420 hrun hcfi⟩⟩
  case colour =>
    exact ⟨_, exec_slicestart_raises_configuration hrun (chromaFormat_of_le hcfi) hbad, raise_raises nofun hrun⟩
  case picture =>
    refine ⟨_, exec_slicestart_raises_protocol hrun (chromaFormat_of_le hcfi)
      (not_colourPlanesIllegal hscp hcolour) fun hlegal => ?_, raise_raises nofun hrun⟩
    obtain ⟨hframe, hmbaff, hfield, hboth, hwidth, hheight, hcap, harea⟩ := hlegal
    rcases hbad with hbad | hbad | hbad | hbad | hbad | hbad | hbad | hbad
    · exact Nat.not_lt.2 hframe hbad
    · exact Nat.not_lt.2 hmbaff hbad
    · exact Nat.not_lt.2 hfield hbad
    · exact hboth hbad
    · exact Nat.not_lt.2 hwidth (Nat.lt_of_succ_lt_succ hbad)
    · exact Nat.not_lt.2 hheight (Nat.lt_of_succ_lt_succ hbad)
    · exact Nat.not_lt.2 hbad harea
    · exact hbad hcap
  case fault => exact command_raises hrun nofun (error_first (chromaFormat_fault hcfi hpolicy))

end Sys2Proof.Machine
end

section
/-!
The operations on `CUR` and `MBSTORE` (R377 to R380). Every test of theirs raises `HostProtocolError`, so each raises it
exactly where its tests do not all pass (`RaisesOnly.error_of_not_ok`); what the tests pass is said once for each.
-/

namespace Sys2Proof.Machine

theorem curOperand_raisesOnly (s : State) : RaisesOnly .hostProtocolError s.curOperand := raisesOnly_orRaise

theorem curOperand_ok {s : State} {m : MbRecord} : s.curOperand = .ok m ↔ s.cur = some m := orRaise_ok

/-- Setting `CUR`, and nothing else before the command is counted. -/
theorem writesCur_retire (s : State) (c : Option MbRecord) : WritesCur s { s with cur := c : State }.retire := rfl

/-! ## The type of a new record (R377) -/

/-- The types a slice type allows (R377). -/
def TypeAllowed (st ty : Nat) : Prop :=
  ty ≤ 25 ∨ (ty = 26 ∧ st % 5 = 4) ∨ (27 ≤ ty ∧ ty ≤ 32 ∧ (st % 5 = 0 ∨ st % 5 = 3)) ∨
    (33 ≤ ty ∧ ty ≤ 56 ∧ st % 5 = 1)

theorem allows_iff (cls : SliceClass) (t : MbT) : cls.allows t = true ↔ TypeAllowed cls.number t.val := by
  revert t
  unfold TypeAllowed
  cases cls <;> decide

theorem TypeAllowed.le {st ty : Nat} (h : TypeAllowed st ty) : ty ≤ 56 := by
  unfold TypeAllowed at h
  omega

theorem typeAllowed_mod {st ty : Nat} : TypeAllowed (st % 5) ty ↔ TypeAllowed st ty := by
  simp only [TypeAllowed, Nat.mod_mod]

theorem exists_sliceClass {s : State} (hst : (s.conf sliceType).toNat ≤ 9) :
    ∃ cls : SliceClass, s.sliceClass = some cls ∧ cls.number = (s.conf sliceType).toNat % 5 := by
  obtain ⟨cls, h⟩ : ∃ cls : SliceClass, cls.number = (s.conf sliceType).toNat % 5 := by
    have hlt := Nat.mod_lt (s.conf sliceType).toNat (show 0 < 5 by decide)
    interval_cases (s.conf sliceType).toNat % 5
    · exact ⟨.p, rfl⟩
    · exact ⟨.b, rfl⟩
    · exact ⟨.i, rfl⟩
    · exact ⟨.sp, rfl⟩
    · exact ⟨.si, rfl⟩
  exact ⟨cls, sliceClass_of_number hst h, h⟩

theorem sliceClass_eq_some {s : State} {cls : SliceClass} (h : s.sliceClass = some cls) :
    (s.conf sliceType).toNat ≤ 9 ∧ cls.number = (s.conf sliceType).toNat % 5 := by
  by_cases hst : (s.conf sliceType).toNat ≤ 9
  · obtain ⟨cls', hcls', hnumber⟩ := exists_sliceClass hst
    obtain rfl := Option.some.inj (h.symm.trans hcls')
    exact ⟨hst, hnumber⟩
  · exact nomatch h.symm.trans (sliceClass_eq_none (Nat.lt_of_not_le hst))

theorem typeOperand_raisesOnly (s : State) (r : Reg) : RaisesOnly .hostProtocolError (s.typeOperand r) := by
  refine raisesOnly_bind raisesOnly_orRaise fun _ => ?_
  split
  · exact raisesOnly_bind raisesOnly_raiseIf fun _ => raisesOnly_ok _
  · exact raisesOnly_error

/-- The type operand is the type its code names, where the slice type is legal and allows it. -/
theorem typeOperand_ok {s : State} {r : Reg} {t : MbT} :
    s.typeOperand r = .ok t ↔
      t.val = s.u r ∧ (s.conf sliceType).toNat ≤ 9 ∧ TypeAllowed (s.conf sliceType).toNat (s.u r) := by
  simp only [State.typeOperand, bind_ok, orRaise_ok]
  constructor
  · rintro ⟨cls, hcls, h⟩
    obtain ⟨hst, hnumber⟩ := sliceClass_eq_some hcls
    split at h
    · simp only [bind_ok, raiseIf_ok, Bool.not_eq_false', allows_iff, Except.ok.injEq] at h
      obtain ⟨_, hallowed, rfl⟩ := h
      exact ⟨rfl, hst, typeAllowed_mod.1 (hnumber ▸ hallowed)⟩
    · exact nomatch h
  · rintro ⟨ht, hst, hallowed⟩
    obtain ⟨cls, hcls, hnumber⟩ := exists_sliceClass hst
    refine ⟨cls, hcls, ?_⟩
    rw [dif_pos (Nat.lt_succ_of_le hallowed.le)]
    refine ok_after (raiseIf_not_ok _ ?_) (congrArg Except.ok (Fin.ext ht.symm))
    exact (allows_iff _ _).2 (hnumber ▸ typeAllowed_mod.2 hallowed)

/-! ## `MBNEW` (R377) -/

/-- The conditions of R377 for a record at address `a`, with type code `ty` and flag `f`. -/
structure MayOpen (s : State) (f : Bool) (a ty : Nat) : Prop where
  begun : s.geo.picWidthInMbs ≠ 0
  noCur : s.cur = none
  inPicture : a < s.geo.picSizeInMbs.toNat
  rising : ∀ m, s.mbstore.getLast? = some m → m.addr.toNat < a
  sliceType : (s.conf sliceType).toNat ≤ 9
  type : TypeAllowed (s.conf Machine.sliceType).toNat ty
  field : f = true → s.geo.mbaffFrameFlag ≠ 0
  pair : s.geo.mbaffFrameFlag = 1 → a % 2 = 1 →
    ∀ m, s.mbstore.getLast? = some m → m.addr.toNat + 1 = a → m.fieldCoded = f

theorem addrNotRising_eq_false_iff {s : State} {a : Nat} :
    s.addrNotRising a = false ↔ ∀ m, s.mbstore.getLast? = some m → m.addr.toNat < a := by
  unfold State.addrNotRising
  cases s.mbstore.getLast? <;> simp

theorem pairDisagrees_eq_false_iff {s : State} {a : Nat} {f : Bool} :
    s.pairDisagrees a f = false ↔
      (a % 2 = 1 → ∀ m, s.mbstore.getLast? = some m → m.addr.toNat + 1 = a → m.fieldCoded = f) := by
  unfold State.pairDisagrees
  cases s.mbstore.getLast? with
  | none => simp
  | some m =>
    have hprev : a % 2 = 1 ∧ m.addr.toNat = a - 1 ↔ a % 2 = 1 ∧ m.addr.toNat + 1 = a := by omega
    simp [hprev, and_imp]

/-- The tests of `MBNEW`, in the order of R377, and the type they leave. -/
def openTests (f : Bool) (ra rb : Reg) (s : State) : Except FaultClass MbT := do
  raiseIf (s.geo.picWidthInMbs == 0) .hostProtocolError
  raiseIf s.cur.isSome .hostProtocolError
  raiseIf (decide (s.geo.picSizeInMbs.toNat ≤ s.u ra)) .hostProtocolError
  raiseIf (s.addrNotRising (s.u ra)) .hostProtocolError
  let t ← s.typeOperand rb
  raiseIf (f && s.geo.mbaffFrameFlag == 0) .hostProtocolError
  raiseIf (s.geo.mbaffFrameFlag == 1 && s.pairDisagrees (s.u ra) f) .hostProtocolError
  .ok t

theorem exec_mbnew (f : Bool) (ra rb : Reg) (s : State) :
    exec (.mbnew f ra rb) s =
      s.command (openTests f ra rb s >>= fun t => .ok { s with cur := some (newRecord s.mbCount (s.reg ra) t f) }) := by
  change execMbnew f ra rb s = _
  simp only [execMbnew, openTests, bind_assoc, ok_bind]

theorem openTests_raisesOnly (f : Bool) (ra rb : Reg) (s : State) :
    RaisesOnly .hostProtocolError (openTests f ra rb s) := by
  iterate 4 refine raisesOnly_bind raisesOnly_raiseIf fun _ => ?_
  refine raisesOnly_bind (typeOperand_raisesOnly s rb) fun _ => ?_
  iterate 2 refine raisesOnly_bind raisesOnly_raiseIf fun _ => ?_
  exact raisesOnly_ok _

theorem openTests_ok {f : Bool} {ra rb : Reg} {s : State} {t : MbT} :
    openTests f ra rb s = .ok t ↔ t.val = s.u rb ∧ MayOpen s f (s.u ra) (s.u rb) := by
  simp only [openTests, bind_ok, raiseIf_ok, typeOperand_ok, addrNotRising_eq_false_iff, Except.ok.injEq,
    beq_eq_false_iff_ne, Option.isSome_eq_false_iff, Option.isNone_iff_eq_none, decide_eq_false_iff_not, not_le,
    Bool.and_eq_false_imp, beq_iff_eq, pairDisagrees_eq_false_iff, exists_const]
  constructor
  · rintro ⟨hbegun, hcur, hin, hrising, _, ⟨ht, hst, htype⟩, hfield, hpair, rfl⟩
    exact ⟨ht, hbegun, hcur, hin, hrising, hst, htype, hfield, hpair⟩
  · rintro ⟨ht, hbegun, hcur, hin, hrising, hst, htype, hfield, hpair⟩
    exact ⟨hbegun, hcur, hin, hrising, t, ⟨ht, hst, htype⟩, hfield, hpair, rfl⟩

/-- The pattern of a new record: that of its code for an `I_16x16` type, else 0 (R330, R377). -/
theorem toNat_cbp_newRecord (idx : Nat) (addr : Word) (t : MbT) (f : Bool) :
    (newRecord idx addr t f).cbp.toNat =
      if 1 ≤ t.val ∧ t.val ≤ 24 then (if (t.val - 1) / 12 = 1 then 15 else 0) + 16 * (((t.val - 1) / 4) % 3)
      else 0 := by
  change (if t.isI16x16 then t.impliedCbp else 0 : BitVec 6).toNat = _
  revert t
  decide

theorem sub_newRecord (idx : Nat) (addr : Word) (t : MbT) (f : Bool) (p : Fin 4) :
    (newRecord idx addr t f).sub[p] = none := Vector.getElem_replicate p.isLt

/-- Settles O25: the tests pass exactly under the conditions of R377. -/
theorem mbnewOpens : Obligations.MbnewOpens := by
  unfold Obligations.MbnewOpens
  intro f ra rb s hrun addr ty st allowed
  have hiff : allowed ↔ MayOpen s f addr ty :=
    ⟨fun ⟨h1, h2, h3, h4, h5, h6, h7, h8⟩ => ⟨h1, h2, h3, h4, h5, h6, h7, h8⟩,
      fun ⟨h1, h2, h3, h4, h5, h6, h7, h8⟩ => ⟨h1, h2, h3, h4, h5, h6, h7, h8⟩⟩
  rw [hiff, exec_mbnew]
  refine ⟨fun h => ?opens, fun h => ?faults⟩
  case opens =>
    have hty : ty < 57 := Nat.lt_succ_of_le h.type.le
    have htests : openTests f ra rb s = .ok ⟨ty, hty⟩ := openTests_ok.2 ⟨rfl, h⟩
    exact ⟨_, _, command_completes hrun (ok_after htests rfl), writesCur_retire s _, rfl, rfl, rfl, rfl, rfl,
      toNat_cbp_newRecord _ _ _ _, sub_newRecord _ _ _ _, rfl, fun _ => rfl⟩
  case faults =>
    exact command_raises hrun nofun (error_first
      ((openTests_raisesOnly f ra rb s).error_of_not_ok fun _ ht => h (openTests_ok.1 ht).2))

/-! ## `MBSET` (R378) -/

section

variable {s : State} {ra : Reg} {f : MbField}

/-- With no `CUR`, or a value the field does not take. -/
theorem mbset_raises (hrun : s.halted = false)
    (h : ∀ m, s.cur = some m → m.withField f (s.u ra) = .error .hostProtocolError) :
    ∃ t, exec (.mbset f ra) s = .next t ∧ Raises .hostProtocolError s t := by
  refine command_raises hrun nofun ?_
  cases hcur : s.cur with
  | none => exact error_first (orRaise_error.2 ⟨hcur, rfl⟩)
  | some m => exact error_after (curOperand_ok.2 hcur) (error_first (h m hcur))

theorem mbset_writes (hrun : s.halted = false) {m m' : MbRecord} (hcur : s.cur = some m)
    (h : m.withField f (s.u ra) = .ok m') :
    ∃ t, exec (.mbset f ra) s = .next t ∧ WritesCur s t ∧ t.cur = some m' :=
  ⟨_, command_completes hrun (ok_after (curOperand_ok.2 hcur) (ok_after h rfl)), writesCur_retire s _, rfl⟩

end

theorem isI16x16_eq_true_iff {t : MbT} : t.isI16x16 = true ↔ 1 ≤ t.val ∧ t.val ≤ 24 := decide_eq_true_iff

section

variable {m : MbRecord} {v : Nat}

theorem withField_cbp (hv : v ≤ 47) (ht : m.type.val = 0 ∨ 25 ≤ m.type.val) :
    m.withField .cbp v = .ok { m with cbp := BitVec.ofNat 6 v } := by
  have h16 : m.type.isI16x16 = false := Bool.eq_false_iff.2 fun h => by
    have := isI16x16_eq_true_iff.1 h
    omega
  exact ok_after (raiseIf_of_not (Nat.not_lt.2 hv)) (ok_after (raiseIf_ok (u := ()).2 h16) rfl)

theorem withField_cbp_error (h : 48 ≤ v ∨ (1 ≤ m.type.val ∧ m.type.val ≤ 24)) :
    m.withField .cbp v = .error .hostProtocolError := by
  rcases h with hv | ht
  · exact error_first (raiseIf_of hv)
  · exact raisesOnly_raiseIf.error_of_rest fun _ => error_first (raiseIf_error.2 ⟨isI16x16_eq_true_iff.2 ht, rfl⟩)

theorem withField_subMbType (m : MbRecord) (p : Fin 4) (hv : v < 17) :
    m.withField (.subMbType p) v = .ok { m with sub := m.sub.set p (some ⟨v, hv⟩) } := dif_pos hv

theorem withField_subMbType_error (m : MbRecord) (p : Fin 4) (hv : 17 ≤ v) :
    m.withField (.subMbType p) v = .error .hostProtocolError := dif_neg (Nat.not_lt.2 hv)

theorem withField_transform8x8 (m : MbRecord) (hv : v ≤ 1) :
    m.withField .transform8x8 v = .ok { m with t8x8 := decide (v = 1) } :=
  ok_after (raiseIf_of_not (Nat.not_lt.2 hv)) rfl

theorem withField_transform8x8_error (m : MbRecord) (hv : 2 ≤ v) :
    m.withField .transform8x8 v = .error .hostProtocolError := error_first (raiseIf_of hv)

end

/-- Settles O26: by the field, what it writes for a legal value and where it raises. -/
theorem mbsetWrites : Obligations.MbsetWrites := by
  unfold Obligations.MbsetWrites
  intro f ra s hrun v
  refine ⟨fun hno => mbset_raises hrun fun m hm => (nomatch hno.symm.trans hm), fun m hcur => ⟨fun hf hv ht => ?cbp,
    fun p hf hv => ?subMbType, fun hf hv => ?transform, fun hbad => ?faults⟩⟩
  case cbp =>
    subst hf
    exact mbset_writes hrun hcur (withField_cbp hv ht)
  case subMbType =>
    subst hf
    exact mbset_writes hrun hcur (withField_subMbType m p hv)
  case transform =>
    subst hf
    exact mbset_writes hrun hcur (withField_transform8x8 m hv)
  case faults =>
    refine mbset_raises hrun fun n hn => ?_
    obtain rfl := Option.some.inj (hcur.symm.trans hn)
    rcases hbad with ⟨rfl, hbad⟩ | ⟨⟨p, rfl⟩, hv⟩ | ⟨rfl, hv⟩
    · exact withField_cbp_error hbad
    · exact withField_subMbType_error m p hv
    · exact withField_transform8x8_error m hv

/-! ## `TBSET` (R379) -/

theorem blockOperand_raisesOnly (s : State) (c : Category) (r : Reg) :
    RaisesOnly .hostProtocolError (s.blockOperand c r) :=
  raisesOnly_bind raisesOnly_raiseIf fun _ => raisesOnly_bind raisesOnly_raiseIf fun _ => raisesOnly_ok _

theorem symbolOutOfRange_eq_false_iff {sym : TbSymbol} {v : Word} :
    symbolOutOfRange sym v = false ↔ SymbolInRange sym v.toNat := by
  cases sym <;> simp [symbolOutOfRange, SymbolInRange]

theorem symbolTarget_ok {m : MbRecord} {key : Nat} {sym : TbSymbol} {v : Word} {b : TransformBlock} :
    m.symbolTarget key sym v = .ok b ↔
      (sym = .totalCoeff ∧ b = freshBlock v.toNat) ∨ (sym ≠ .totalCoeff ∧ m.block key = some b) := by
  unfold MbRecord.symbolTarget
  split
  · rename_i h
    simp [h, eq_comm]
  · rename_i h
    simp [h]

theorem symbolTarget_raisesOnly (m : MbRecord) (key : Nat) (sym : TbSymbol) (v : Word) :
    RaisesOnly .hostProtocolError (m.symbolTarget key sym v) :=
  raisesOnly_ite (raisesOnly_ok _) raisesOnly_orRaise

/-- The conditions of R379 under which `TBSET` writes a symbol of value `v` in block `i` of a category of `CUR`, `m`;
the symbol is written to `old`. -/
structure MaySet (s : State) (c : Category) (sym : TbSymbol) (i : Nat) (v : Word) (m : MbRecord)
    (old : TransformBlock) : Prop where
  cur : s.cur = some m
  block : NamesBlock s c i
  target : m.symbolTarget (blockKey c i) sym v = .ok old
  inRange : SymbolInRange sym v.toNat

/-- The state a `TBSET` of a symbol of value `v` leaves before it is counted. -/
def State.setSymbol (s : State) (m : MbRecord) (key : Nat) (old : TransformBlock) (sym : TbSymbol) (v : Word) : State :=
  { s with cur := some (m.setBlock key (old.withSymbol sym v)) }

section

variable {s : State} (hrun : s.halted = false) {c : Category} {sym : TbSymbol} {ra rb : Reg}
include hrun

theorem exec_tbset {m : MbRecord} {old : TransformBlock} (h : MaySet s c sym (s.u rb) (s.reg ra) m old) :
    exec (.tbset c sym ra rb) s =
      .next (s.setSymbol m (blockKey c (s.u rb)) old sym (s.reg ra)).retire := by
  obtain ⟨hcur, hblock, htarget, hrange⟩ := h
  rw [blockKey_eq_key] at htarget ⊢
  exact command_completes hrun (ok_after (curOperand_ok.2 hcur) (ok_after (blockOperand_ok.2 ⟨hblock, rfl⟩)
    (ok_after htarget (ok_after (raiseIf_ok (u := ()).2 (symbolOutOfRange_eq_false_iff.2 hrange)) rfl))))

theorem tbset_raises (h : ∀ m old, ¬MaySet s c sym (s.u rb) (s.reg ra) m old) :
    ∃ t, exec (.tbset c sym ra rb) s = .next t ∧ Raises .hostProtocolError s t := by
  refine command_raises hrun nofun (RaisesOnly.error_of_not_ok ?only fun u hu => ?fails)
  case only =>
    refine raisesOnly_bind (curOperand_raisesOnly s) fun m => ?_
    refine raisesOnly_bind (blockOperand_raisesOnly s c rb) fun b => ?_
    refine raisesOnly_bind (symbolTarget_raisesOnly m _ sym _) fun old => ?_
    exact raisesOnly_bind raisesOnly_raiseIf fun _ => raisesOnly_ok _
  case fails =>
    simp only [bind_ok, curOperand_ok, blockOperand_ok, raiseIf_ok, symbolOutOfRange_eq_false_iff] at hu
    obtain ⟨m, hcur, _, ⟨hblock, rfl⟩, old, htarget, _, hrange, _⟩ := hu
    exact h m old ⟨hcur, hblock, blockKey_eq_key c _ ▸ htarget, hrange⟩

end

/-- A vector after a write inside it. -/
theorem getElem?_setIfInBounds_of_lt {α : Type} {n j : Nat} (hj : j < n) (v : Vector α n) (a : α) (i : Nat) :
    (v.setIfInBounds j a)[i]? = if i = j then some a else v[i]? := by
  rw [Vector.getElem?_setIfInBounds]
  by_cases h : i = j
  · rw [if_pos h, if_pos h.symm, if_pos (h ▸ hj)]
  · rw [if_neg h, if_neg (Ne.symm h)]

/-- A flag operand is its low bit. -/
theorem getLsbD_zero_of_le_one {v : Word} (h : v.toNat ≤ 1) : v.getLsbD 0 = decide (v.toNat = 1) := by
  rw [BitVec.getLsbD, Nat.testBit_zero, Nat.mod_eq_of_lt (Nat.lt_succ_of_le h)]

theorem toNat_totalCoeff_freshBlock {n : Nat} (h : n ≤ 16) : (freshBlock n).totalCoeff.toNat = n :=
  Nat.mod_eq_of_lt (show n < 2 ^ 5 by omega)

/-- Settles O27: the tests pass, and the symbol is the only one of the block that `withSymbol` changes. -/
theorem tbsetWrites : Obligations.TbsetWrites := by
  unfold Obligations.TbsetWrites
  intro c sym ra rb s m hrun hcur hblock hrange hvalid
  obtain ⟨old, htarget⟩ : ∃ old, m.symbolTarget (blockKey c (s.u rb)) sym (s.reg ra) = .ok old := by
    by_cases hsym : sym = .totalCoeff
    · exact ⟨_, symbolTarget_ok.2 (.inl ⟨hsym, rfl⟩)⟩
    · obtain ⟨old, hold⟩ := hvalid.resolve_left hsym
      exact ⟨old, symbolTarget_ok.2 (.inr ⟨hsym, hold⟩)⟩
  refine ⟨_, m.setBlock (blockKey c (s.u rb)) (old.withSymbol sym (s.reg ra)), old.withSymbol sym (s.reg ra),
    exec_tbset hrun ⟨hcur, hblock, htarget, hrange⟩, writesCur_retire s _, rfl, rfl, fun k hk => ?others, ?written,
    fun hsym => ?totalCoeff, fun old' hold' => ?symbol⟩
  case others => rw [MbRecord.block_setBlock, if_neg hk]
  case written => rw [MbRecord.block_setBlock, if_pos rfl]
  case totalCoeff =>
    subst hsym
    exact ⟨toNat_totalCoeff_freshBlock hrange, rfl, rfl, rfl, rfl, rfl, rfl, rfl, rfl⟩
  case symbol =>
    have hsame : sym ≠ .totalCoeff → old' = old := fun hsym => by
      obtain ⟨h, -⟩ | ⟨-, hold⟩ := symbolTarget_ok.1 htarget
      · exact absurd h hsym
      · exact Option.some.inj (hold'.symm.trans hold)
    refine ⟨?trailingOnes, ?t1Sign, ?levelPrefix, ?levelSuffix, ?totalZeros, ?runBefore⟩
    case trailingOnes =>
      rintro rfl
      obtain rfl := hsame nofun
      exact ⟨rfl, (BitVec.toNat_setWidth 2 _).trans (Nat.mod_eq_of_lt (Nat.lt_succ_of_le hrange))⟩
    case t1Sign =>
      rintro e rfl
      obtain rfl := hsame nofun
      obtain ⟨he, hv⟩ := hrange
      exact ⟨rfl, fun i => (getElem?_setIfInBounds_of_lt (Nat.lt_succ_of_le he) _ _ i).trans
        (by rw [getLsbD_zero_of_le_one hv]; rfl)⟩
    case levelPrefix =>
      rintro e rfl
      obtain rfl := hsame nofun
      exact ⟨rfl, getElem?_setIfInBounds_of_lt (Nat.lt_succ_of_le hrange) _ _⟩
    case levelSuffix =>
      rintro e z rfl
      obtain rfl := hsame nofun
      obtain ⟨he, -⟩ := hrange
      exact ⟨rfl, getElem?_setIfInBounds_of_lt (Nat.lt_succ_of_le he) _ _,
        getElem?_setIfInBounds_of_lt (Nat.lt_succ_of_le he) _ _⟩
    case totalZeros =>
      rintro rfl
      obtain rfl := hsame nofun
      exact ⟨rfl, (BitVec.toNat_setWidth 5 _).trans (Nat.mod_eq_of_lt (hrange.trans_lt (by decide)))⟩
    case runBefore =>
      rintro e rfl
      obtain rfl := hsame nofun
      obtain ⟨he, -⟩ := hrange
      exact ⟨rfl, getElem?_setIfInBounds_of_lt (Nat.lt_succ_of_le he) _ _⟩

/-! ## `MBCOMMIT` (R380) -/

theorem exec_mbcommit {s : State} (hrun : s.halted = false) {m : MbRecord} (hcur : s.cur = some m)
    (hfits : WithinMaxMbs s (s.mbstore.length + 1)) :
    exec .mbcommit s = .next { s with mbstore := s.mbstore ++ [m], cur := none : State }.retire :=
  command_completes hrun (ok_after (curOperand_ok.2 hcur)
    (ok_after (raiseIf_ok (u := ()).2 (atMaxMbs_false.2 hfits)) rfl))

theorem mbcommit_raises {s : State} (hrun : s.halted = false)
    (h : s.cur = none ∨ ¬WithinMaxMbs s (s.mbstore.length + 1)) :
    ∃ t, exec .mbcommit s = .next t ∧ Raises .hostProtocolError s t := by
  refine command_raises hrun nofun ?_
  rcases h with hno | hfull
  · exact error_first (orRaise_error.2 ⟨hno, rfl⟩)
  · refine (curOperand_raisesOnly s).error_of_rest fun _ => error_first (raiseIf_error.2 ⟨?_, rfl⟩)
    exact Bool.eq_true_of_not_eq_false (mt atMaxMbs_false.1 hfull)

/-- Settles O28: the two tests of `MBCOMMIT`, and that each case of the statement denies a condition of `TBSET`. -/
theorem mbcommitAndRecordTraps : Obligations.MbcommitAndRecordTraps := by
  unfold Obligations.MbcommitAndRecordTraps
  intro s hrun
  refine ⟨fun m hcur hfits => ⟨_, exec_mbcommit hrun hcur hfits, rfl⟩, mbcommit_raises hrun, fun c sym ra rb hbad => ?_⟩
  refine tbset_raises hrun fun m old ⟨hcur, hblock, htarget, hrange⟩ => ?_
  rcases hbad with hno | hnoBlock | hout | ⟨hsym, m', hcur', hinvalid⟩
  · exact nomatch hno.symm.trans hcur
  · exact hnoBlock hblock
  · exact hout hrange
  · obtain rfl := Option.some.inj (hcur.symm.trans hcur')
    obtain ⟨h, -⟩ | ⟨-, hold⟩ := symbolTarget_ok.1 htarget
    · exact hsym h
    · exact nomatch hinvalid.symm.trans hold

end Sys2Proof.Machine
end
